-- ==== Sys2Proof/Word.lean ====
section
/-! DEFINITION. The word types of the block. Every register is an unsigned integer of a stated width (00_scope R8);
there are no signed quantities. -/

namespace Sys2Proof

/-- A byte of the stream, a colour index, or a component of a colour (R31, R38, R93). -/
abbrev Byte := BitVec 8

/-- A word of the host's register file (10_state R41). -/
abbrev Word := BitVec 32

/-- An LZW code: at most 12 bits (00_scope R6), zero-extended to 12. -/
abbrev Code := BitVec 12

/-- A colour-table entry: `r` in bits 7:0, `g` in bits 15:8, `b` in bits 23:16 (10_state R52, 20_memory R71). -/
abbrev Rgb := BitVec 24

end Sys2Proof
end

