-- ==== Sys2Proof/Config.lean ====
section
/-! DEFINITION. What an implementation fixes and the free values. An `opaque` constant has no body a proof can use, so a
theorem about it holds whatever its value is. -/

namespace Sys2Proof

/-- `MAX_DICT` (00_scope R6). -/
def Config.maxDict : Nat := 4096

/-- `MAX_CODE_SIZE` (00_scope R6). -/
def Config.maxCodeSize : Nat := 12

/-- `MCS_MIN` and `MCS_MAX` (00_scope R6). -/
def Config.mcsMin : Nat := 2
/-- `MCS_MAX` (00_scope R6). -/
def Config.mcsMax : Nat := 8

/-- `CT_MAX` (00_scope R6). -/
def Config.ctMax : Nat := 256

/-- `ALPHA` (00_scope R6, 43_pixel_lookup R194). -/
def Config.alpha : Byte := 255

/-- FREE VALUE: the colour a colour-table cell that has not been written since the last reset holds, by session and cell.
93_implementation_defined U3: any 24-bit value, fixed per cell for the session. Log entry 4. -/
opaque Config.unwrittenColour : Nat → Byte → Rgb

/-- OPEN parameter `REG_BASE` (00_scope R7). Log entry 16. -/
opaque Config.regBase : Nat

/-- OPEN parameter `REG_STRIDE` (00_scope R7). Log entry 16. -/
opaque Config.regStride : Nat

/-- The byte address of register `n` in the platform's space (10_state R41); no rule of the block depends on it. -/
def Config.regAddress (n : Nat) : Nat := Config.regBase + n * Config.regStride

end Sys2Proof
end

