-- ==== Sys2Proof/Syntax.lean ====
section
/-! DEFINITION. The instructions of the block: one constructor for each mnemonic of spec/opcode_table.json, which lists the
elements of the compressed stream (30_encoding R91 to R96), the pixel lookup (R102, R192) and the host commands (R104). -/

namespace Sys2Proof

inductive Instr where
  /-- `MCS n`, the min-code-size byte, 2 to 8 (41_bit_reader R142). -/
  | mcs (n : Byte)
  /-- `MCS.INVALID b`, a min-code-size byte outside 2 to 8 (R142). -/
  | mcsInvalid (b : Byte)
  /-- `TERM`, the zero length byte (R144). -/
  | term
  /-- `BLKLEN n`, a length byte 1 to 255 (R143). -/
  | blklen (n : Byte)
  /-- `DATA x`, a data byte (R145). -/
  | data (x : Byte)
  /-- `ENTRY c` (42_lzw_codes R168). -/
  | entry (c : Code)
  /-- `KWKWK`, with the code read, which equals `DICT_SIZE` (R169). -/
  | kwkwk (c : Code)
  /-- `NOPRED`, with the code read (R171). -/
  | nopred (c : Code)
  /-- `BEYOND`, with the code read (R170). -/
  | beyond (c : Code)
  /-- `CLEAR` (R165). -/
  | clear
  /-- `END`, the End-of-Information code (R166). -/
  | endOfInfo
  /-- `ROOT c` (R167). -/
  | root (c : Code)
  /-- `LOOKUP i` (43_pixel_lookup R190). -/
  | lookup (i : Byte)
  /-- `FINISH` (R192). -/
  | finish
  /-- `RESET` (40_host_commands R120). -/
  | reset
  /-- `START`; the operand is bit 2 of the word, which asks for CLOSE in the same write (R121, R130; log entry 10). -/
  | start (alsoClose : Bool)
  /-- `CLOSE` (R122). -/
  | close
  /-- `CTSIZE v` (R123). -/
  | ctsize (v : BitVec 9)
  /-- `CTWR i, rgb` (R124). -/
  | ctwr (i r g b : Byte)
  /-- `PUSH b` (R125). -/
  | push (b : Byte)
  /-- `SETADDR k` (R126). -/
  | setaddr (k : Word)
  /-- Register reads (R127). -/
  | rdstatus
  | rdinfo
  | rdctsize
  | rdpos
  | rdcount
  | rdaddr
  | rdlzw
  | rdprev
  | rdct (i : Byte)
  /-- `RDPIX` (R128). -/
  | rdpix
  deriving DecidableEq, Repr

/-- The registers a code is compared with to find its class (30_encoding R96). -/
structure CodeRegs where
  clear    : BitVec 9
  eoi      : BitVec 9
  dictSize : BitVec 13
  prev     : Code
  deriving DecidableEq, Repr

/-- What the next element is, which depends on machine state and never on the element's own bits (30_encoding R93, R97,
R99): a decoder of this hardware is given the format and the bits. -/
inductive Context where
  /-- `BYTE_MCS` -/
  | mcsByte
  /-- `BYTE_LEN` -/
  | lenByte
  /-- `BYTE_DATA` -/
  | dataByte
  /-- `CODE_w` with `w = CODE_SIZE` -/
  | code (w : BitVec 4) (regs : CodeRegs)
  /-- `IDX8` -/
  | pixel
  /-- no operand: the finishing step -/
  | noOperand
  /-- `REGWR`, a write of a word to a register number -/
  | regWrite (reg : Nat)
  /-- `REGRD`, a read of a register number -/
  | regRead (reg : Nat)
  deriving DecidableEq, Repr

end Sys2Proof
end

