-- ==== Sys2Proof/WellFormed.lean ====
section
/-! DEFINITION. Which instruction terms the encoding admits: the operand ranges that hold in every context, and the class
conditions of a code against the registers it is compared with (30_encoding R91, R92, R96). -/

namespace Sys2Proof

/-- The operand ranges that hold whatever the machine state is. `MCS` is 2 to 8 and `MCS.INVALID` every other byte (R91);
`BLKLEN` is not 0 (R92); a root is below 256 and a dynamic entry at least 6, since `CLEAR_CODE` is 4 to 256 (R98). -/
def Instr.wellFormed : Instr → Bool
  | .mcs n        => decide (Config.mcsMin ≤ n.toNat ∧ n.toNat ≤ Config.mcsMax)
  | .mcsInvalid b => decide (b.toNat < Config.mcsMin ∨ Config.mcsMax < b.toNat)
  | .blklen n     => decide (n ≠ 0)
  | .root c       => decide (c.toNat < 256)
  | .entry c      => decide (6 ≤ c.toNat)
  | .kwkwk c      => decide (6 ≤ c.toNat)
  | .nopred c     => decide (6 ≤ c.toNat)
  | .beyond c     => decide (7 ≤ c.toNat)
  | .term | .data _ | .clear | .endOfInfo | .lookup _ | .finish | .reset | .start _ | .close | .ctsize _ | .ctwr _ _ _ _
  | .push _ | .setaddr _ | .rdstatus | .rdinfo | .rdctsize | .rdpos | .rdcount | .rdaddr | .rdlzw | .rdprev | .rdct _
  | .rdpix => true

/-- Registers a code can be compared with, and the widths a code can have (10_state R54 items 1 to 3, 30_encoding R95). -/
def CodeRegs.legal (w : BitVec 4) (r : CodeRegs) : Bool :=
  decide (3 ≤ w.toNat ∧ w.toNat ≤ 12 ∧ 4 ≤ r.clear.toNat ∧ r.clear.toNat ≤ 256 ∧ r.eoi.toNat = r.clear.toNat + 1 ∧
    r.clear.toNat + 2 ≤ r.dictSize.toNat ∧ r.dictSize.toNat ≤ 4096)

/-- The class condition of a code instruction (30_encoding R96), with the code within the width; every other instruction
fits any registers. -/
def Instr.fits (w : BitVec 4) (r : CodeRegs) : Instr → Bool
  | .clear     => decide (r.clear.toNat < 2 ^ w.toNat)
  | .endOfInfo => decide (r.eoi.toNat < 2 ^ w.toNat)
  | .root c    => decide (c.toNat < 2 ^ w.toNat ∧ c.toNat < r.clear.toNat)
  | .entry c   => decide (c.toNat < 2 ^ w.toNat ∧ r.eoi.toNat < c.toNat ∧ c.toNat < r.dictSize.toNat)
  | .kwkwk c   => decide (c.toNat < 2 ^ w.toNat ∧ c.toNat = r.dictSize.toNat ∧ r.prev.toNat ≠ r.clear.toNat)
  | .nopred c  => decide (c.toNat < 2 ^ w.toNat ∧ c.toNat = r.dictSize.toNat ∧ r.prev.toNat = r.clear.toNat)
  | .beyond c  => decide (c.toNat < 2 ^ w.toNat ∧ r.dictSize.toNat < c.toNat)
  | .mcs _ | .mcsInvalid _ | .blklen _ | .term | .data _ | .lookup _ | .finish | .reset | .start _ | .close | .ctsize _
  | .ctwr _ _ _ _ | .push _ | .setaddr _ | .rdstatus | .rdinfo | .rdctsize | .rdpos | .rdcount | .rdaddr | .rdlzw
  | .rdprev | .rdct _ | .rdpix => true

end Sys2Proof
end

