-- ==== Sys2Proof/Decode.lean ====
section
/-! DEFINITION. From bits to an instruction or a rejection by name, for every format of 30_encoding; then the encoder from the
same tables; then the reading of a word of spec/opcode_table.json. Which format the next element has is state the machine
supplies (`Context`); the bits alone then fix the instruction. -/

namespace Sys2Proof

/-- Why bits are no instruction. -/
inductive Reject where
  /-- fewer bytes than the format has -/
  | truncated
  /-- a `CTRL` word with no command bit set: a write of it does nothing (10_state R42, 40_host_commands R130) -/
  | noCommand
  /-- a write to a read-only register: ignored (10_state R53) -/
  | readOnly (reg : Nat)
  /-- a read of a write-only register: returns 0 (R53) -/
  | writeOnly (reg : Nat)
  /-- a reserved register number: a read returns 0, a write is ignored (R53) -/
  | reserved (reg : Nat)
  deriving DecidableEq, Repr

inductive Decoded where
  | instr (i : Instr)
  | rejected (why : Reject)
  deriving DecidableEq, Repr

/-- Format `BYTE_MCS` (30_encoding R91). -/
def decodeMcs (b : Byte) : Instr :=
  if b.toNat < Config.mcsMin ∨ Config.mcsMax < b.toNat then .mcsInvalid b else .mcs b

/-- Format `BYTE_LEN` (R92). -/
def decodeLen (b : Byte) : Instr :=
  if b = 0 then .term else .blklen b

/-- Format `BYTE_DATA` (R93): every value is legal. -/
def decodeData (b : Byte) : Instr := .data b

/-- The class of a code, the tests in the order of R96, the first that matches wins. -/
def decodeCode (r : CodeRegs) (c : Code) : Instr :=
  if c.toNat = r.clear.toNat then .clear
  else if c.toNat = r.eoi.toNat then .endOfInfo
  else if c.toNat < r.clear.toNat then .root c
  else if c.toNat < r.dictSize.toNat then .entry c
  else if c.toNat = r.dictSize.toNat then
    if r.prev.toNat ≠ r.clear.toNat then .kwkwk c else .nopred c
  else .beyond c

/-- The `w` low bits of a value as a code: `v[w−1:0]` (41_bit_reader R147). -/
def codeBits (w : BitVec 4) (v : Word) : Code :=
  BitVec.ofNat 12 (v.toNat % 2 ^ w.toNat)

/-- Bits `lo + 7 : lo` of a word. -/
def wordByte (v : Word) (lo : Nat) : Byte := v.extractLsb' lo 8

/-- Format `REGWR` (R104, 10_state R41 to R53). In a `CTRL` word RESET dominates; START carries bit 2 with it (40_host_commands
R130, log entry 10). -/
def decodeWrite (reg : Nat) (v : Word) : Decoded :=
  if reg = 0 then
    if v.getLsbD 1 then .instr .reset
    else if v.getLsbD 0 then .instr (.start (v.getLsbD 2))
    else if v.getLsbD 2 then .instr .close
    else .rejected .noCommand
  else if reg = 3 then .instr (.ctsize (v.setWidth 9))
  else if reg = 4 then .instr (.push (wordByte v 0))
  else if reg = 7 then .instr (.setaddr v)
  else if 256 ≤ reg ∧ reg ≤ 511 then
    .instr (.ctwr (BitVec.ofNat 8 (reg - 256)) (wordByte v 0) (wordByte v 8) (wordByte v 16))
  else if reg ≤ 10 then .rejected (.readOnly reg)
  else .rejected (.reserved reg)

/-- Format `REGRD` (R104, 10_state R41, R53; 40_host_commands R127, R128). -/
def decodeRead (reg : Nat) : Decoded :=
  if reg = 1 then .instr .rdstatus
  else if reg = 2 then .instr .rdinfo
  else if reg = 3 then .instr .rdctsize
  else if reg = 5 then .instr .rdpos
  else if reg = 6 then .instr .rdcount
  else if reg = 7 then .instr .rdaddr
  else if reg = 8 then .instr .rdpix
  else if reg = 9 then .instr .rdlzw
  else if reg = 10 then .instr .rdprev
  else if 256 ≤ reg ∧ reg ≤ 511 then .instr (.rdct (BitVec.ofNat 8 (reg - 256)))
  else if reg = 0 ∨ reg = 4 then .rejected (.writeOnly reg)
  else .rejected (.reserved reg)

/-- The element's bits stand at the low end of `v`; bits above its width are not part of it. -/
def decode (ctx : Context) (v : Word) : Decoded :=
  match ctx with
  | .mcsByte      => .instr (decodeMcs (wordByte v 0))
  | .lenByte      => .instr (decodeLen (wordByte v 0))
  | .dataByte     => .instr (decodeData (wordByte v 0))
  | .code w r     => .instr (decodeCode r (codeBits w v))
  | .pixel        => .instr (.lookup (wordByte v 0))
  | .noOperand    => .instr .finish
  | .regWrite reg => decodeWrite reg v
  | .regRead reg  => decodeRead reg

/-- How many whole bytes an element of a format needs when it is laid out on its own. A read sends no data. -/
def Context.bytes : Context → Nat
  | .mcsByte | .lenByte | .dataByte | .pixel => 1
  | .code w _   => (w.toNat + 7) / 8
  | .noOperand | .regRead _ => 0
  | .regWrite _ => 4

/-- The first byte lies lowest and holds the low-order bits (20_memory R62, R71). -/
def wordOfBytes : List Byte → Word
  | []      => 0
  | b :: bs => b.setWidth 32 ||| (wordOfBytes bs <<< 8)

/-- The four bytes of a word, the low-order one first. -/
def bytesOfWord (v : Word) : List Byte :=
  [wordByte v 0, wordByte v 8, wordByte v 16, wordByte v 24]

/-- The decoder on any bytes: the element at their front. -/
def decodeBytes (ctx : Context) (bs : List Byte) : Decoded :=
  if bs.length < ctx.bytes then .rejected .truncated
  else decode ctx (wordOfBytes (bs.take ctx.bytes))

/-! ## The encoder -/

/-- An instruction laid out: its format and its bits, zero above its width. -/
structure Encoding where
  ctx  : Context
  bits : Word
  deriving DecidableEq, Repr

/-- A colour-table word: `r` in bits 7:0, `g` in 15:8, `b` in 23:16 (20_memory R71). -/
def rgbWord (r g b : Byte) : Word :=
  r.setWidth 32 ||| (g.setWidth 32 <<< 8) ||| (b.setWidth 32 <<< 16)

/-- The encoder, written from 30_encoding R91 to R104. `w` and `r` are the width and the registers of the code formats. -/
def encode (w : BitVec 4) (r : CodeRegs) : Instr → Encoding
  | .mcs n        => ⟨.mcsByte, n.setWidth 32⟩
  | .mcsInvalid b => ⟨.mcsByte, b.setWidth 32⟩
  | .term         => ⟨.lenByte, 0⟩
  | .blklen n     => ⟨.lenByte, n.setWidth 32⟩
  | .data x       => ⟨.dataByte, x.setWidth 32⟩
  | .clear        => ⟨.code w r, r.clear.setWidth 32⟩
  | .endOfInfo    => ⟨.code w r, r.eoi.setWidth 32⟩
  | .root c       => ⟨.code w r, c.setWidth 32⟩
  | .entry c      => ⟨.code w r, c.setWidth 32⟩
  | .kwkwk c      => ⟨.code w r, c.setWidth 32⟩
  | .nopred c     => ⟨.code w r, c.setWidth 32⟩
  | .beyond c     => ⟨.code w r, c.setWidth 32⟩
  | .lookup i     => ⟨.pixel, i.setWidth 32⟩
  | .finish       => ⟨.noOperand, 0⟩
  | .reset        => ⟨.regWrite 0, 2⟩
  | .start c      => ⟨.regWrite 0, if c then 5 else 1⟩
  | .close        => ⟨.regWrite 0, 4⟩
  | .ctsize v     => ⟨.regWrite 3, v.setWidth 32⟩
  | .push b       => ⟨.regWrite 4, b.setWidth 32⟩
  | .setaddr k    => ⟨.regWrite 7, k⟩
  | .ctwr i x g b => ⟨.regWrite (256 + i.toNat), rgbWord x g b⟩
  | .rdstatus     => ⟨.regRead 1, 0⟩
  | .rdinfo       => ⟨.regRead 2, 0⟩
  | .rdctsize     => ⟨.regRead 3, 0⟩
  | .rdpos        => ⟨.regRead 5, 0⟩
  | .rdcount      => ⟨.regRead 6, 0⟩
  | .rdaddr       => ⟨.regRead 7, 0⟩
  | .rdpix        => ⟨.regRead 8, 0⟩
  | .rdlzw        => ⟨.regRead 9, 0⟩
  | .rdprev       => ⟨.regRead 10, 0⟩
  | .rdct i       => ⟨.regRead (256 + i.toNat), 0⟩

/-! ## A word of the opcode table -/

/-- The registers of a session whose dictionary has just been reset: `CLEAR_CODE = 2^m`, `END_CODE` the next, `DICT_SIZE` the
next but one, no predecessor (30_encoding R98). -/
def freshRegs (m : Nat) : CodeRegs where
  clear    := BitVec.ofNat 9 (2 ^ m)
  eoi      := BitVec.ofNat 9 (2 ^ m + 1)
  dictSize := BitVec.ofNat 13 (2 ^ m + 2)
  prev     := BitVec.ofNat 12 (2 ^ m)

/-- The format in which a word of the opcode table is read. -/
inductive TableFormat where
  /-- `BYTE_MCS` -/
  | mcs
  /-- `CODE_w` right after a dictionary reset with min-code-size `m` -/
  | code (m : Nat) (w : BitVec 4)
  /-- `REGWR` to register 0, `CTRL` -/
  | ctrl
  deriving DecidableEq, Repr

def TableFormat.context : TableFormat → Context
  | .mcs      => .mcsByte
  | .code m w => .code w (freshRegs m)
  | .ctrl     => .regWrite 0

/-- The min-code-size for which a value is a control code, if there is one (R98). -/
def controlMcs (v : Nat) : Option Nat :=
  [2, 3, 4, 5, 6, 7, 8].find? (fun m => v == 2 ^ m || v == 2 ^ m + 1)

/-- A row of the table gives its bits and no machine state, and rows of different formats share words; this names the format
each word is read in (log entry 9). A word of at most 8 bits: 1 and 2 are the `CTRL` words of START and RESET; 0 and the
control codes are codes of 8 bits; the rest are min-code-size bytes. A word of 9 to 16 bits is a code of 12 bits. A longer
one is a `CTRL` word. -/
def tableFormat (nbits v : Nat) : TableFormat :=
  if nbits ≤ 8 then
    if v = 1 ∨ v = 2 then .ctrl
    else if v = 0 then .code 2 8
    else match controlMcs v with
      | some m => .code m 8
      | none   => .mcs
  else if nbits ≤ 16 then
    match controlMcs v with
    | some m => .code m 12
    | none   => if v < 4 then .code 2 12 else .code 8 12
  else .ctrl

/-- The bits the table gives, and zeros above them. -/
def tableWord (nbits w : Nat) : Word := BitVec.ofNat 32 (w % 2 ^ nbits)

/-- The instruction the decoder reads from a word of the opcode table: the word's bytes, in the hardware's order, in the
format `tableFormat` names. -/
def decodeTableWord (nbits w : Nat) : Option Instr :=
  let v := tableWord nbits w
  match decodeBytes (tableFormat nbits v.toNat).context (bytesOfWord v) with
  | .instr i    => some i
  | .rejected _ => none

end Sys2Proof
end

