-- ==== Sys2Proof/Machine/State.lean ====
section
/-! DEFINITION. The state of the block (10_state R20), the model's own fields beside it, the reasons to stop, and reset. -/

namespace Sys2Proof.Machine

/-- `PHASE` (10_state R33); the reserved values 6 and 7 are never produced, so they are no constructors. -/
inductive Phase where
  | idle | header | lzw | composite | done | fault
  deriving DecidableEq, Repr

/-- `LZW_STATE` (10_state R34). -/
inductive LzwState where
  | awaitingFirstCode | decoding | cleared | done
  deriving DecidableEq, Repr

/-- `FAULT` (10_state R35); the reserved values 4 to 7 are never produced. -/
inductive FaultKind where
  | none | unexpectedEndOfStream | invalidCode | colorIndexOutOfRange
  deriving DecidableEq, Repr

/-- A dictionary string: a NON-EMPTY sequence of colour indices (10_state R28), its first index apart. -/
structure Str where
  first : Byte
  rest  : List Byte
  deriving DecidableEq, Repr

/-- A memory of cells numbered by Nat: the cells that hold a value, by rising number. A cell that is not listed holds none. -/
abbrev Memory (α : Type) := List (Nat × α)

/-- The canonical form: cell numbers strictly rise. Equal memories are then equal lists. -/
abbrev Memory.wf {α : Type} (m : Memory α) : Prop := m.Pairwise (fun a b => a.1 < b.1)

/-- A move that is due, the environment's input (93 U7, log entry 1): the scheduler gives the engine a turn, or the host
writes a word to a register number or reads one (10_state R41). -/
inductive Turn where
  | engine
  | write (reg : Nat) (word : Word)
  | read (reg : Nat)
  deriving DecidableEq, Repr

structure State where
  /-- `IN` (R21): the bytes pushed in this session, in push order. -/
  inp        : List Byte
  /-- `IN_CLOSED` (R21). -/
  inClosed   : Bool
  /-- `IN_POS` (R22): an unbounded natural. -/
  inPos      : Nat
  /-- `BLK_REM` (R23). -/
  blkRem     : BitVec 8
  /-- `ACC` (R24): bit 0 is the next stream bit to deliver. -/
  acc        : BitVec 19
  /-- `NBITS` (R24). -/
  nbits      : BitVec 5
  /-- `MCS` (R25). -/
  mcs        : BitVec 4
  /-- `CLEAR_CODE` (R26). -/
  clearCode  : BitVec 9
  /-- `END_CODE` (R26). -/
  endCode    : BitVec 9
  /-- `CODE_SIZE` (R27). -/
  codeSize   : BitVec 4
  /-- `DICT` (R28): the cells that hold a string. -/
  dict       : Memory Str
  /-- `DICT_SIZE` (R29). -/
  dictSize   : BitVec 13
  /-- `PREV_CODE` (R30). -/
  prevCode   : Code
  /-- `LZW_STATE` (R34). -/
  lzwState   : LzwState
  /-- `IDX` (R31). -/
  idx        : List Byte
  /-- `COMP_POS` (R32): an unbounded natural. -/
  compPos    : Nat
  /-- `CT` (R38): the cells whose written mark is 1, with their colours. -/
  ct         : Memory Rgb
  /-- `CT_SIZE` (R38). -/
  ctSize     : BitVec 9
  /-- `OUT` (R39). -/
  out        : List Byte
  /-- `PHASE` (R33). -/
  phase      : Phase
  /-- `FAULT` (R35). -/
  fault      : FaultKind
  /-- `FAULT_INFO` (R36). -/
  faultInfo  : BitVec 16
  /-- `EOI_SEEN` (R37). -/
  eoiSeen    : Bool
  /-- `SOFT_END` (R37). -/
  softEnd    : Bool
  /-- `MCS_INVALID` (R37). -/
  mcsInvalid : Bool
  /-- `OUT_ADDR` (R48). -/
  outAddr    : Word
  /-- The model's own: the moves that are due, oldest first (log entry 1). -/
  agenda     : List Turn
  /-- The model's own: the word the last register read returned to the host (log entry 2). -/
  rdata      : Word
  /-- The model's own: the session's number, to which the free colour of an unwritten cell belongs (log entry 5). -/
  session    : Nat
  deriving DecidableEq, Repr

/-- Faults that stop the MODEL. The block's own three faults (60_exceptions R220) stop nothing: each is a next state with
`PHASE = FAULT`. -/
inductive Fault where
  /-- Raised by the engine's step if it would pull a third data byte for one code. 41_bit_reader R150 bounds it by two and the
  loop is written with that bound. SAFE, and never raised (Obligations.StepNeverFaults states it of every state). -/
  | bitReaderBound
  deriving DecidableEq, Repr

inductive Refusal where
  /-- Raised by exec for an instruction that has no meaning yet. SAFE. -/
  | notModelled (mnemonic : String)
  /-- Raised by `ROOT`, `ENTRY` and `KWKWK` when they would read a `DICT` cell that holds no string. 93 U1: no rule reads one,
  "A model that reads one has a bug: `refuse`". SAFE, and raised in no state that meets the invariants of R54. -/
  | dictCellUndefined
  deriving DecidableEq, Repr

/-- The state after reset and after power-on (10_state R57, 70 R250, R251). -/
def State.reset : State where
  inp        := []
  inClosed   := false
  inPos      := 0
  blkRem     := 0
  acc        := 0
  nbits      := 0
  mcs        := 0
  clearCode  := 0
  endCode    := 0
  codeSize   := 0
  dict       := []
  dictSize   := 0
  prevCode   := 0
  lzwState   := .awaitingFirstCode
  idx        := []
  compPos    := 0
  ct         := []
  ctSize     := 0
  out        := []
  phase      := .idle
  fault      := .none
  faultInfo  := 0
  eoiSeen    := false
  softEnd    := false
  mcsInvalid := false
  outAddr    := 0
  agenda     := []
  rdata      := 0
  session    := 0

end Sys2Proof.Machine
end

