-- ==== Sys2Proof/Machine/Ops.lean ====
section
/-! DEFINITION. The named operations over the memories and registers: cells, the input channel, the dictionary, the width
check, fault entry, the end of the code loop, reset. Every meaning goes through these. -/

namespace Sys2Proof.Machine

/-! ## Cells -/

/-- The value a cell holds, none where it is not listed. -/
def Memory.read {α : Type} (m : Memory α) (a : Nat) : Option α :=
  match m with
  | []          => none
  | (k, v) :: r => if k = a then some v else Memory.read r a

/-- Write a cell, keeping the cells in rising order. -/
def Memory.write {α : Type} (m : Memory α) (a : Nat) (v : α) : Memory α :=
  match m with
  | []          => [(a, v)]
  | (k, u) :: r =>
    if a < k then (a, v) :: (k, u) :: r
    else if a = k then (a, v) :: r
    else (k, u) :: Memory.write r a v

/-- The sequence a dictionary string is. -/
def Str.toList (p : Str) : List Byte := p.first :: p.rest

/-- `p ++ [x]`. -/
def Str.snoc (p : Str) (x : Byte) : Str := { first := p.first, rest := p.rest ++ [x] }

/-! ## The input channel -/

/-- What `InByte()` answers (41_bit_reader R141). -/
inductive InByte where
  | byte (b : Byte) (s : State)
  | eos
  | hold
  deriving DecidableEq, Repr

/-- `IN_POS <- IN_POS + 1`: one byte consumed (10_state R22). -/
def advance (s : State) : State := { s with inPos := s.inPos + 1 }

/-- `InByte()` (R141): the next raw byte and the state with it consumed; `eos` when the input has ended; `hold` when the byte
may still come. -/
def inByte (s : State) : InByte :=
  match s.inp[s.inPos]? with
  | some b => .byte b (advance s)
  | none   => if s.inClosed then .eos else .hold

/-- `IN <- IN ++ [b]` (40_host_commands R125). -/
def appendInput (b : Byte) (s : State) : State := { s with inp := s.inp ++ [b] }

/-! ## The bit accumulator -/

/-- `BLK_REM <- n` (R143). -/
def openBlock (n : Byte) (s : State) : State := { s with blkRem := n }

/-- A data byte: `BLK_REM <- BLK_REM − 1`, its bits above the buffered ones (R145). -/
def bufferByte (x : Byte) (s : State) : State :=
  { s with
    blkRem := s.blkRem - 1
    acc    := s.acc ||| (x.setWidth 19 <<< s.nbits.toNat)
    nbits  := s.nbits + 8 }

/-- The code the accumulator delivers: `ACC[w−1:0]` with `w = CODE_SIZE` (R147). -/
def bufferedCode (s : State) : Code := codeBits s.codeSize (s.acc.setWidth 32)

/-- The code's bits leave the accumulator (R147). -/
def dropCode (s : State) : State :=
  { s with
    acc   := s.acc >>> s.codeSize.toNat
    nbits := s.nbits - s.codeSize.setWidth 5 }

/-! ## The dictionary -/

/-- The root strings `[0] .. [n−1]`. -/
def rootCells (n : Nat) : Memory Str :=
  (List.range n).map (fun i => (i, { first := BitVec.ofNat 8 i, rest := [] }))

/-- `DictReset()` (42_lzw_codes R161). Cells that become meaningless are no longer listed. -/
def dictReset (s : State) : State :=
  { s with
    dict     := rootCells s.clearCode.toNat
    dictSize := s.clearCode.setWidth 13 + 2 }

/-- `DictAppend(p)` (R162): a full dictionary stops growing silently. -/
def dictAppend (p : Str) (s : State) : State :=
  if s.dictSize.toNat < Config.maxDict then
    { s with dict := Memory.write s.dict s.dictSize.toNat p, dictSize := s.dictSize + 1 }
  else s

/-- `IsDataEntry(c)` (R163). -/
def isDataEntry (s : State) (c : Code) : Bool :=
  decide (c.toNat < s.dictSize.toNat ∧ c.toNat ≠ s.clearCode.toNat ∧ c.toNat ≠ s.endCode.toNat)

/-- `DICT[c]`, which may be read only when `IsDataEntry(c)` (R163). -/
def dictRead (s : State) (c : Code) : Option Str :=
  if isDataEntry s c then Memory.read s.dict c.toNat else none

/-- `PREV_CODE != CLEAR_CODE`: there is a predecessor (10_state R30). -/
def hasPred (s : State) : Bool := decide (s.prevCode.toNat ≠ s.clearCode.toNat)

/-- `WidthCheck()` (R172): an equality on the size after the step's append. -/
def widthCheck (s : State) : State :=
  if s.dictSize.toNat = 2 ^ s.codeSize.toNat ∧ s.codeSize.toNat < Config.maxCodeSize then
    { s with codeSize := s.codeSize + 1 }
  else s

/-! ## The code step's endings -/

/-- `IDX <- IDX ++ p`. -/
def emit (p : Str) (s : State) : State := { s with idx := s.idx ++ p.toList }

/-- What every data code does last: `PREV_CODE <- c`, `LZW_STATE <- Decoding` (R167 to R169), then the width check of the code
step (R164). -/
def endDataCode (c : Code) (s : State) : State :=
  widthCheck { s with prevCode := c, lzwState := .decoding }

/-- The code is an existing entry (R167, R168): output its string; with a predecessor, append the predecessor's string and the
first index of this one. Both cells are read before either write. -/
def existingCode (c : Code) (s : State) : Host.Outcome State Fault Refusal :=
  match dictRead s c with
  | none   => .refused .dictCellUndefined
  | some p =>
    if hasPred s then
      match dictRead s s.prevCode with
      | none   => .refused .dictCellUndefined
      | some q => .next (endDataCode c (dictAppend (q.snoc p.first) (emit p s)))
    else .next (endDataCode c (emit p s))

/-- The code is the next index to be assigned (R169): the predecessor's string and its first index, output and appended. -/
def nextIndexCode (c : Code) (s : State) : Host.Outcome State Fault Refusal :=
  match dictRead s s.prevCode with
  | none   => .refused .dictCellUndefined
  | some q => .next (endDataCode c (dictAppend (q.snoc q.first) (emit (q.snoc q.first) s)))

/-- The code loop ends, by END or by TERM: `LZW_STATE <- Done`, `PHASE <- COMPOSITE`, `COMP_POS <- 0` (R144, R166). -/
def endCodeLoop (s : State) : State :=
  { s with lzwState := .done, phase := .composite, compPos := 0 }

/-- The header step's registers for an accepted min-code-size (41_bit_reader R142). -/
def loadMcs (b : Byte) (s : State) : State :=
  let t := dictReset
    { s with
      mcs       := b.setWidth 4
      clearCode := (1 : BitVec 9) <<< b.toNat
      endCode   := ((1 : BitVec 9) <<< b.toNat) + 1
      codeSize  := b.setWidth 4 + 1 }
  { t with prevCode := t.clearCode.setWidth 12, lzwState := .awaitingFirstCode, phase := .lzw }

/-! ## Faults and reset -/

/-- Fault entry, `raise K(info)` (60_exceptions R224): the one shared operation. Nothing is saved and there is no handler. There
is no return from it (R229): only `resetBlock` below leaves `FAULT`. -/
def raise (k : FaultKind) (info : BitVec 16) (s : State) : State :=
  { s with fault := k, faultInfo := info, phase := .fault }

/-- RESET (40_host_commands R120): every item of 10_state R57 takes its reset value. The host's own moves and last read word are
not the block's and stay; the cells nobody has written draw anew (log entry 5). -/
def resetBlock (s : State) : State :=
  { State.reset with agenda := s.agenda, rdata := s.rdata, session := s.session + 1 }

/-- A host read returns a word; no item of the block changes (20_memory R73). -/
def returnWord (v : Word) (s : State) : State := { s with rdata := v }

end Sys2Proof.Machine
end

