-- ==== Sys2Proof/Machine/Flags.lean ====
section
/-! DEFINITION. The flags (10_state R37, R21) and the numbers `STATUS` shows (R33 to R35, R40). -/

namespace Sys2Proof.Machine

/-- `EOI_SEEN <- 1` (42_lzw_codes R166). -/
def setEoiSeen (s : State) : State := { s with eoiSeen := true }

/-- `SOFT_END <- 1` (41_bit_reader R144). -/
def setSoftEnd (s : State) : State := { s with softEnd := true }

/-- `MCS_INVALID <- 1; FAULT_INFO <- b` (R142). -/
def setMcsInvalid (b : Byte) (s : State) : State :=
  { s with mcsInvalid := true, faultInfo := b.setWidth 16 }

/-- `IN_CLOSED <- 1` (40_host_commands R122). -/
def setInClosed (s : State) : State := { s with inClosed := true }

/-- The numbers of `PHASE` (R33). -/
def phaseNumber : Phase → Word
  | .idle => 0 | .header => 1 | .lzw => 2 | .composite => 3 | .done => 4 | .fault => 5

/-- The numbers of `LZW_STATE` (R34). -/
def lzwStateNumber : LzwState → Word
  | .awaitingFirstCode => 0 | .decoding => 1 | .cleared => 2 | .done => 3

/-- The numbers of `FAULT` (R35). -/
def faultNumber : FaultKind → Word
  | .none => 0 | .unexpectedEndOfStream => 1 | .invalidCode => 2 | .colorIndexOutOfRange => 3

/-- A flag as bit 0 of a word. -/
def flagBit (b : Bool) : Word := if b then 1 else 0

/-- `STATUS` (R40). -/
def statusWord (s : State) : Word :=
  phaseNumber s.phase ||| (lzwStateNumber s.lzwState <<< 3) ||| (faultNumber s.fault <<< 5)
    ||| (flagBit s.eoiSeen <<< 8) ||| (flagBit s.softEnd <<< 9) ||| (flagBit s.mcsInvalid <<< 10)
    ||| (flagBit s.inClosed <<< 11)

end Sys2Proof.Machine
end

