-- ==== Sys2Proof/Machine/Operands.lean ====
section
/-! DEFINITION. Where operands come from and what the host's registers read as: the registers a code is compared with, the
colour table, pixels, and the words of the register file (10_state R43 to R52). -/

namespace Sys2Proof.Machine

/-- The registers a code is compared with (30_encoding R96). -/
def codeRegs (s : State) : CodeRegs where
  clear    := s.clearCode
  eoi      := s.endCode
  dictSize := s.dictSize
  prev     := s.prevCode

/-- `CT[i]`: the colour written in this session, else the session's free colour of that cell (93 U3, log entry 4). -/
def ctColour (s : State) (i : Byte) : Rgb :=
  match Memory.read s.ct i.toNat with
  | some c => c
  | none   => Config.unwrittenColour s.session i

/-- `CT[i] <- (r, g, b)` (40_host_commands R124). -/
def packRgb (r g b : Byte) : Rgb :=
  r.setWidth 24 ||| (g.setWidth 24 <<< 8) ||| (b.setWidth 24 <<< 16)

def rgbRed (c : Rgb) : Byte := c.extractLsb' 0 8
def rgbGreen (c : Rgb) : Byte := c.extractLsb' 8 8
def rgbBlue (c : Rgb) : Byte := c.extractLsb' 16 8

/-- The four bytes of a pixel, `r, g, b, 255` (30_encoding R103, 20_memory R70). -/
def pixelBytes (c : Rgb) : List Byte := [rgbRed c, rgbGreen c, rgbBlue c, Config.alpha]

/-- Pixel `k` of the raster as a word: byte `4k` in bits 7:0 and so on (20_memory R71, 40_host_commands R128). -/
def pixelWord (out : List Byte) (k : Nat) : Word :=
  wordOfBytes [out.getD (4 * k) 0, out.getD (4 * k + 1) 0, out.getD (4 * k + 2) 0, out.getD (4 * k + 3) 0]

/-- `FAULT_INFO`, register 2 (R43). -/
def infoWord (s : State) : Word := s.faultInfo.setWidth 32

/-- `CT_SIZE`, register 3 (R44). -/
def ctSizeWord (s : State) : Word := s.ctSize.setWidth 32

/-- `IN_POS`, register 5: modulo `2^32` (R46). -/
def posWord (s : State) : Word := BitVec.ofNat 32 s.inPos

/-- `OUT_COUNT`, register 6: the number of pixels in `DONE`, else 0 (R47). -/
def countWord (s : State) : Word :=
  if s.phase = .done then BitVec.ofNat 32 (s.out.length / 4) else 0

/-- `OUT_DATA`, register 8: pixel `OUT_ADDR` in `DONE`, else 0 (R49). -/
def dataWord (s : State) : Word :=
  if s.phase = .done ∧ s.outAddr.toNat < s.out.length / 4 then pixelWord s.out s.outAddr.toNat else 0

/-- `LZW_INFO`, register 9 (R50). -/
def lzwInfoWord (s : State) : Word :=
  s.codeSize.setWidth 32 ||| (s.mcs.setWidth 32 <<< 4) ||| (s.dictSize.setWidth 32 <<< 8)

/-- `LZW_PREV`, register 10 (R51). -/
def lzwPrevWord (s : State) : Word := s.prevCode.setWidth 32

/-- `CT[i]`, register `256 + i`: bits 31:24 zero (R52). -/
def ctWord (s : State) (i : Byte) : Word := (ctColour s i).setWidth 32

end Sys2Proof.Machine
end

