-- ==== Sys2Proof/Machine/Codes.lean ====
section
/-! DEFINITION. The code layer: `CLEAR`, `END`, `ROOT`, `ENTRY`, `KWKWK`, and the illegal `NOPRED` and `BEYOND` (42_lzw_codes).
The code's bits have left the accumulator in the fetch (Machine/Fetch.lean). -/

namespace Sys2Proof.Machine

/-- `ENTRY c` (R168). -/
def execEntry (c : Code) (s : State) : Host.Outcome State Fault Refusal :=
  existingCode c s

/-- `KWKWK` (R169). -/
def execKwkwk (c : Code) (s : State) : Host.Outcome State Fault Refusal :=
  nextIndexCode c s

/-- `NOPRED` (R171): `raise InvalidCode(c)`. -/
def execNopred (c : Code) (s : State) : Host.Outcome State Fault Refusal :=
  .next (raise .invalidCode (c.setWidth 16) s)

/-- `BEYOND` (R170): `raise InvalidCode(c)`. -/
def execBeyond (c : Code) (s : State) : Host.Outcome State Fault Refusal :=
  .next (raise .invalidCode (c.setWidth 16) s)

/-- `CLEAR` (R165), with the width check of the code step (R164), which never fires here. -/
def execClear (s : State) : Host.Outcome State Fault Refusal :=
  .next (widthCheck
    { dictReset s with
      codeSize := s.mcs + 1
      prevCode := s.clearCode.setWidth 12
      lzwState := .cleared })

/-- `END` (R166): the width check is not run. -/
def execEndOfInfo (s : State) : Host.Outcome State Fault Refusal :=
  .next (endCodeLoop (setEoiSeen s))

/-- `ROOT c` (R167). -/
def execRoot (c : Code) (s : State) : Host.Outcome State Fault Refusal :=
  existingCode c s

end Sys2Proof.Machine
end

