-- ==== Sys2Proof/Machine/Commands.lean ====
section
/-! DEFINITION. The host commands that write: `RESET`, `START`, `CLOSE`, `CTSIZE`, `CTWR`, `PUSH`, `SETADDR`
(40_host_commands R120 to R126, R129, R130). A command in the wrong phase changes nothing. -/

namespace Sys2Proof.Machine

/-- `RESET` (R120), legal in every phase. -/
def execReset (s : State) : Host.Outcome State Fault Refusal :=
  .next (resetBlock s)

/-- `if PHASE = IDLE then PHASE <- HEADER` (R121). -/
def startSession (s : State) : State :=
  if s.phase = .idle then { s with phase := .header } else s

/-- `START` (R121); with bit 2 of the word set, CLOSE first (R130). -/
def execStart (alsoClose : Bool) (s : State) : Host.Outcome State Fault Refusal :=
  .next (startSession (if alsoClose then setInClosed s else s))

/-- `CLOSE` (R122), legal in every phase. -/
def execClose (s : State) : Host.Outcome State Fault Refusal :=
  .next (setInClosed s)

/-- `CTSIZE v` (R123): in `IDLE` and at most 256, else ignored. -/
def execCtsize (v : BitVec 9) (s : State) : Host.Outcome State Fault Refusal :=
  if s.phase = .idle ∧ v.toNat ≤ Config.ctMax then .next { s with ctSize := v } else .next s

/-- `CTWR i, rgb` (R124): the colour and the written mark, in `IDLE`, else ignored. -/
def execCtwr (i r g b : Byte) (s : State) : Host.Outcome State Fault Refusal :=
  if s.phase = .idle then .next { s with ct := Memory.write s.ct i.toNat (packRgb r g b) } else .next s

/-- `PUSH b` (R125): while the input is open, in every phase. -/
def execPush (b : Byte) (s : State) : Host.Outcome State Fault Refusal :=
  if s.inClosed then .next s else .next (appendInput b s)

/-- `SETADDR k` (R126), legal in every phase. -/
def execSetaddr (k : Word) (s : State) : Host.Outcome State Fault Refusal :=
  .next { s with outAddr := k }

end Sys2Proof.Machine
end

