-- ==== Sys2Proof/Machine/Framing.lean ====
section
/-! DEFINITION. The framing layer: `MCS`, `MCS.INVALID`, `TERM`, `BLKLEN`, `DATA` (41_bit_reader). The byte itself has been
consumed by the fetch (Machine/Fetch.lean). -/

namespace Sys2Proof.Machine

/-- `MCS n` (R142): the session's registers, the dictionary reset, no predecessor, `PHASE <- LZW`. -/
def execMcs (n : Byte) (s : State) : Host.Outcome State Fault Refusal :=
  .next (loadMcs n s)

/-- `MCS.INVALID b` (R142, 60_exceptions R225): soft; the session is `DONE` with nothing decoded. -/
def execMcsInvalid (b : Byte) (s : State) : Host.Outcome State Fault Refusal :=
  .next { setMcsInvalid b s with phase := .done }

/-- `TERM` (R144, 60_exceptions R227): soft end; the bits still buffered are abandoned where they are. -/
def execTerm (s : State) : Host.Outcome State Fault Refusal :=
  .next (endCodeLoop (setSoftEnd s))

/-- `BLKLEN n` (R143). -/
def execBlklen (n : Byte) (s : State) : Host.Outcome State Fault Refusal :=
  .next (openBlock n s)

/-- `DATA x` (R145). -/
def execData (x : Byte) (s : State) : Host.Outcome State Fault Refusal :=
  .next (bufferByte x s)

end Sys2Proof.Machine
end

