-- ==== Sys2Proof/Machine/Pixels.lean ====
section
/-! DEFINITION. The pixel lookup: `LOOKUP` and `FINISH` (43_pixel_lookup). -/

namespace Sys2Proof.Machine

/-- `LOOKUP i` (R190); an index at or beyond `CT_SIZE` raises `ColorIndexOutOfRange(i)` (R191). -/
def execLookup (i : Byte) (s : State) : Host.Outcome State Fault Refusal :=
  if s.ctSize.toNat ≤ i.toNat then .next (raise .colorIndexOutOfRange (i.setWidth 16) s)
  else .next { s with out := s.out ++ pixelBytes (ctColour s i), compPos := s.compPos + 1 }

/-- `FINISH` (R192). -/
def execFinish (s : State) : Host.Outcome State Fault Refusal :=
  .next { s with phase := .done }

end Sys2Proof.Machine
end

