-- ==== Sys2Proof/Machine/Reads.lean ====
section
/-! DEFINITION. The host commands that read a register (40_host_commands R127, R128). Each returns its word and has no side
effect on the block. -/

namespace Sys2Proof.Machine

/-- `RDSTATUS`: register 1 (10_state R40). -/
def execRdstatus (s : State) : Host.Outcome State Fault Refusal := .next (returnWord (statusWord s) s)

/-- `RDINFO`: register 2 (R43). -/
def execRdinfo (s : State) : Host.Outcome State Fault Refusal := .next (returnWord (infoWord s) s)

/-- `RDCTSIZE`: register 3 (R44). -/
def execRdctsize (s : State) : Host.Outcome State Fault Refusal := .next (returnWord (ctSizeWord s) s)

/-- `RDPOS`: register 5 (R46). -/
def execRdpos (s : State) : Host.Outcome State Fault Refusal := .next (returnWord (posWord s) s)

/-- `RDCOUNT`: register 6 (R47). -/
def execRdcount (s : State) : Host.Outcome State Fault Refusal := .next (returnWord (countWord s) s)

/-- `RDADDR`: register 7 (R48). -/
def execRdaddr (s : State) : Host.Outcome State Fault Refusal := .next (returnWord s.outAddr s)

/-- `RDLZW`: register 9 (R50). -/
def execRdlzw (s : State) : Host.Outcome State Fault Refusal := .next (returnWord (lzwInfoWord s) s)

/-- `RDPREV`: register 10 (R51). -/
def execRdprev (s : State) : Host.Outcome State Fault Refusal := .next (returnWord (lzwPrevWord s) s)

/-- `RDCT i`: register `256 + i` (R52). A cell never written returns its free colour (93 U3). -/
def execRdct (i : Byte) (s : State) : Host.Outcome State Fault Refusal := .next (returnWord (ctWord s i) s)

/-- `RDPIX`: register 8 (R49, R128). `OUT_ADDR` does not advance. -/
def execRdpix (s : State) : Host.Outcome State Fault Refusal := .next (returnWord (dataWord s) s)

end Sys2Proof.Machine
end

