-- ==== Sys2Proof/Machine/Dispatch.lean ====
section
/-! DEFINITION. One arm per instruction: the call of its meaning. -/

namespace Sys2Proof.Machine

def exec (i : Instr) (s : State) : Host.Outcome State Fault Refusal :=
  match i with
  | .mcs n => Sys2Proof.Machine.execMcs n s
  | .mcsInvalid b => Sys2Proof.Machine.execMcsInvalid b s
  | .term => Sys2Proof.Machine.execTerm s
  | .blklen n => Sys2Proof.Machine.execBlklen n s
  | .data x => Sys2Proof.Machine.execData x s
  | .entry c => Sys2Proof.Machine.execEntry c s
  | .kwkwk c => Sys2Proof.Machine.execKwkwk c s
  | .nopred c => Sys2Proof.Machine.execNopred c s
  | .beyond c => Sys2Proof.Machine.execBeyond c s
  | .clear => Sys2Proof.Machine.execClear s
  | .endOfInfo => Sys2Proof.Machine.execEndOfInfo s
  | .root c => Sys2Proof.Machine.execRoot c s
  | .lookup k => Sys2Proof.Machine.execLookup k s
  | .finish => Sys2Proof.Machine.execFinish s
  | .reset => Sys2Proof.Machine.execReset s
  | .start alsoClose => Sys2Proof.Machine.execStart alsoClose s
  | .close => Sys2Proof.Machine.execClose s
  | .ctsize v => Sys2Proof.Machine.execCtsize v s
  | .ctwr k r g b => Sys2Proof.Machine.execCtwr k r g b s
  | .push b => Sys2Proof.Machine.execPush b s
  | .setaddr k => Sys2Proof.Machine.execSetaddr k s
  | .rdstatus => Sys2Proof.Machine.execRdstatus s
  | .rdinfo => Sys2Proof.Machine.execRdinfo s
  | .rdctsize => Sys2Proof.Machine.execRdctsize s
  | .rdpos => Sys2Proof.Machine.execRdpos s
  | .rdcount => Sys2Proof.Machine.execRdcount s
  | .rdaddr => Sys2Proof.Machine.execRdaddr s
  | .rdlzw => Sys2Proof.Machine.execRdlzw s
  | .rdprev => Sys2Proof.Machine.execRdprev s
  | .rdct k => Sys2Proof.Machine.execRdct k s
  | .rdpix => Sys2Proof.Machine.execRdpix s

end Sys2Proof.Machine
end

