-- ==== Sys2Proof/Machine/Fetch.lean ====
section
/-! DEFINITION. Fetching an element, the engine's atomic step, a host access, and placing a word of the opcode table where the
step fetches. An element is one instruction: a framing byte, a code, an index, or the finishing step. A code step runs the
framing bytes it needs and then the code, all or nothing (00_scope R11, 41_bit_reader R141). -/

namespace Sys2Proof.Machine

/-- What the engine meets at its cursor (10_state R56). -/
inductive Fetched where
  /-- an instruction, and the state with its own bits consumed -/
  | instr (i : Instr) (s : State)
  /-- the input has ended where a byte is needed -/
  | eos
  /-- no engine step is enabled: a byte is missing while the input is open, or the phase has no engine step -/
  | hold
  deriving DecidableEq, Repr

/-- A byte of the stream, read in the format the cursor is at. -/
def fetchByte (format : Byte → Instr) (s : State) : Fetched :=
  match inByte s with
  | .byte b t => .instr (format b) t
  | .eos      => .eos
  | .hold     => .hold

/-- Which of `BYTE_LEN` and `BYTE_DATA` a byte is depends only on `BLK_REM` (30_encoding R93). -/
def framingFormat (s : State) : Byte → Instr :=
  if s.blkRem = 0 then decodeLen else decodeData

/-- The next element. In `LZW` it is a code when `CODE_SIZE` bits are buffered and a byte of the framing when not (41_bit_reader
R147). In `COMPOSITE` it is the index at `COMP_POS`, or the finishing step at the end of `IDX` (43_pixel_lookup R190, R192). -/
def fetch (s : State) : Fetched :=
  match s.phase with
  | .header    => fetchByte decodeMcs s
  | .lzw       =>
    if s.codeSize.toNat ≤ s.nbits.toNat then .instr (decodeCode (codeRegs s) (bufferedCode s)) (dropCode s)
    else fetchByte (framingFormat s) s
  | .composite =>
    match s.idx[s.compPos]? with
    | some k => .instr (.lookup k) s
    | none   => if s.compPos = s.idx.length then .instr .finish s else .hold
  | .idle | .done | .fault => .hold

/-- `BLKLEN` and `DATA` are executed inside the code step (R143, R145): the step goes on after them. -/
def continuesStep : Instr → Bool
  | .blklen _ | .data _ => true
  | .mcs _ | .mcsInvalid _ | .term | .entry _ | .kwkwk _ | .nopred _ | .beyond _ | .clear | .endOfInfo | .root _ | .lookup _
  | .finish | .reset | .start _ | .close | .ctsize _ | .ctwr _ _ _ _ | .push _ | .setaddr _ | .rdstatus | .rdinfo
  | .rdctsize | .rdpos | .rdcount | .rdaddr | .rdlzw | .rdprev | .rdct _ | .rdpix => false

/-- The engine's step as a run of at most `n` elements; `none` when it is held, and then nothing of it is kept. At the end of
the input it raises `UnexpectedEndOfStream(0)` with the bytes taken so far counted (R142, R146). -/
def engineElements : Nat → State → Option (Host.Outcome State Fault Refusal)
  | 0,     _ => some (.fault .bitReaderBound)
  | n + 1, s =>
    match fetch s with
    | .hold      => none
    | .eos       => some (.next (raise .unexpectedEndOfStream 0 s))
    | .instr i t =>
      match exec i t with
      | .next u    => if continuesStep i then engineElements n u else some (.next u)
      | .fault r   => some (.fault r)
      | .refused r => some (.refused r)

/-- The most elements one engine step has: at most two data bytes, each with a length byte before it, and the code (R150). -/
def maxElements : Nat := 5

/-- The engine's step: none when none is enabled. -/
def engineStep (s : State) : Option (Host.Outcome State Fault Refusal) := engineElements maxElements s

/-- The engine's turn: its step when one is enabled; else nothing happens (41_bit_reader R141, 60_exceptions R229). -/
def engineTurn (s : State) : Host.Outcome State Fault Refusal :=
  match engineStep s with
  | some o => o
  | none   => .next s

/-- A host write: the command its register and word encode; an access that encodes none is ignored (40_host_commands R129). -/
def hostWrite (reg : Nat) (v : Word) (s : State) : Host.Outcome State Fault Refusal :=
  match decodeWrite reg v with
  | .instr i    => exec i s
  | .rejected _ => .next s

/-- A host read; a write-only or reserved register returns 0 (10_state R53). -/
def hostRead (reg : Nat) (s : State) : Host.Outcome State Fault Refusal :=
  match decodeRead reg with
  | .instr i    => exec i s
  | .rejected _ => .next (returnWord 0 s)

/-- The move that is due, taken off the agenda. With nothing on it the engine has the turn (log entry 1). -/
def takeTurn (s : State) : Host.Outcome State Fault Refusal :=
  match s.agenda with
  | []                => engineTurn s
  | .engine :: r      => engineTurn { s with agenda := r }
  | .write reg v :: r => hostWrite reg v { s with agenda := r }
  | .read reg :: r    => hostRead reg { s with agenda := r }

/-- Put a word of the opcode table where the next step fetches: a min-code-size byte at the cursor of a started session; a
code in the accumulator of a session whose dictionary has just been reset; a `CTRL` write at the head of the agenda
(log entry 9). -/
def placeTableWord (f : TableFormat) (v : Word) (s : State) : State :=
  match f with
  | .mcs =>
    { s with
      agenda := []
      phase  := .header
      inPos  := min s.inPos s.inp.length
      inp    := s.inp.take s.inPos ++ [wordByte v 0] ++ s.inp.drop (s.inPos + 1) }
  | .code m w =>
    { loadMcs (BitVec.ofNat 8 m) s with
      agenda   := []
      codeSize := w
      acc      := (codeBits w v).setWidth 19
      nbits    := w.setWidth 5 }
  | .ctrl => { s with agenda := [.write 0 v] }

end Sys2Proof.Machine
end

