-- ==== Sys2Proof/Machine/Step.lean ====
section
/-! DEFINITION. The step of the machine: the move that is due. -/

namespace Sys2Proof.Machine

/-- One step of one agent (00_scope R11). -/
def step (s : State) : Host.Outcome State Fault Refusal := takeTurn s

/-- `s` with a word of the opcode table where the next step fetches (log entry 9). -/
def State.withFetchWord (s : State) (nbits w : Nat) : State :=
  placeTableWord (tableFormat nbits (tableWord nbits w).toNat) (tableWord nbits w) s

end Sys2Proof.Machine
end

