-- ==== Sys2Proof/Safety.lean ====
section
/-! DEFINITION. The terms claims use: whose move is due, the phases, the result, and the invariants of 10_state R54 and of the
rules beside it. -/

namespace Sys2Proof.Machine

/-- The engine's turn is due in `s`, and `t` is `s` with the turn taken off the agenda (log entry 1). -/
def EngineDue (s t : State) : Prop :=
  (s.agenda = [] ∧ t = s) ∨ ∃ r, s.agenda = .engine :: r ∧ t = { s with agenda := r }

/-- The move that is due is a RESET: a `CTRL` write with bit 1 set (40_host_commands R120, R130). -/
def ResetDue (s : State) : Prop :=
  ∃ v r, s.agenda = .write 0 v :: r ∧ v.getLsbD 1 = true

/-- `PHASE` is `DONE` or `FAULT` (60_exceptions R229). -/
def Terminal (s : State) : Prop := s.phase = .done ∨ s.phase = .fault

/-- The result of a session (43_pixel_lookup R193). -/
def result (s : State) : List Byte := if s.phase = .done then s.out else []

/-- The dictionary and the colour table are in canonical form, and every cell listed is one of the memory's (20_memory R60,
10_state R28, R38). -/
structure MemoriesWf (s : State) : Prop where
  dict_wf   : Memory.wf s.dict
  ct_wf     : Memory.wf s.ct
  ct_cells  : ∀ e ∈ s.ct, e.1 < 256

/-- The bit reader's registers (R54 item 8, R24): `ACC < 2^NBITS`, `IN_POS <= len(IN)`, `NBITS <= 11`, and `NBITS <= 7` while
the code loop runs. -/
structure ReaderInv (s : State) : Prop where
  acc_lt    : s.acc.toNat < 2 ^ s.nbits.toNat
  nbits_le  : s.nbits.toNat ≤ 11
  nbits_lzw : s.phase = .lzw → s.nbits.toNat ≤ 7
  inPos_le  : s.inPos ≤ s.inp.length

/-- The LZW registers once the header step has accepted a min-code-size (R54 items 1 to 5). -/
structure RegsInv (s : State) : Prop where
  mcs_range   : 2 ≤ s.mcs.toNat ∧ s.mcs.toNat ≤ 8
  clear_eq    : s.clearCode.toNat = 2 ^ s.mcs.toNat
  end_eq      : s.endCode.toNat = s.clearCode.toNat + 1
  width_range : s.mcs.toNat + 1 ≤ s.codeSize.toNat ∧ s.codeSize.toNat ≤ 12
  size_range  : s.clearCode.toNat + 2 ≤ s.dictSize.toNat ∧ s.dictSize.toNat ≤ 4096
  size_le     : s.dictSize.toNat ≤ 2 ^ s.codeSize.toNat
  size_full   : s.dictSize.toNat = 2 ^ s.codeSize.toNat → s.codeSize.toNat = 12
  size_ge     : 2 ^ (s.codeSize.toNat - 1) ≤ s.dictSize.toNat

/-- The root cells hold their own index (R28); every data entry holds a string of root indices that is not too long (R54 item
6; a string is non-empty by its type); no other cell is listed. -/
structure DictInv (s : State) : Prop where
  roots   : ∀ c : Code, c.toNat < s.clearCode.toNat → dictRead s c = some { first := c.setWidth 8, rest := [] }
  entries : ∀ c : Code, isDataEntry s c = true →
    ∃ p, dictRead s c = some p ∧ (∀ x ∈ p.toList, x.toNat < s.clearCode.toNat) ∧
      p.toList.length + s.clearCode.toNat + 1 ≤ s.dictSize.toNat
  cells   : ∀ e ∈ s.dict, e.1 < s.dictSize.toNat ∧ e.1 ≠ s.clearCode.toNat ∧ e.1 ≠ s.endCode.toNat

/-- What holds once the header step has accepted a min-code-size: R54 items 1 to 7 and 9; and while there is no predecessor
the dictionary is freshly reset and the width is the initial one (42_lzw_codes R173). -/
structure SessionInv (s : State) : Prop where
  regs  : RegsInv s
  dict  : DictInv s
  prev  : s.prevCode.toNat = s.clearCode.toNat ∨ isDataEntry s s.prevCode = true
  fresh : s.prevCode.toNat = s.clearCode.toNat →
    s.dictSize.toNat = s.clearCode.toNat + 2 ∧ s.codeSize.toNat = s.mcs.toNat + 1
  idx   : ∀ x ∈ s.idx, x.toNat < s.clearCode.toNat
  phase : s.phase ≠ .idle ∧ s.phase ≠ .header

/-- What holds before that, and after an invalid min-code-size or an end of input at the header byte: the working registers
are at their reset values (R57, 93 U2) and nothing has been decoded. -/
structure FreshInv (s : State) : Prop where
  regs   : s.mcs = 0 ∧ s.clearCode = 0 ∧ s.endCode = 0 ∧ s.codeSize = 0 ∧ s.dictSize = 0 ∧ s.prevCode = 0
  reader : s.blkRem = 0 ∧ s.acc = 0 ∧ s.nbits = 0
  empty  : s.dict = [] ∧ s.idx = [] ∧ s.out = [] ∧ s.compPos = 0
  phase  : s.phase ≠ .lzw ∧ s.phase ≠ .composite

/-- `COMP_POS <= len(IDX)` and `len(OUT) = 4 * COMP_POS` (R32); no pixel before the code loop has ended (43_pixel_lookup R195);
every index has been looked up in `DONE` (R193). -/
structure RasterInv (s : State) : Prop where
  pos_le   : s.compPos ≤ s.idx.length
  out_len  : s.out.length = 4 * s.compPos
  lzw_zero : s.phase = .lzw → s.compPos = 0
  done_all : s.phase = .done → s.compPos = s.idx.length

/-- `FAULT` and the flags (R35, R36, R37): `FAULT` is not `NONE` exactly in `PHASE = FAULT`; at most one of the three flags is
set, and none before the code loop has ended or the header byte was refused; `FAULT_INFO` is 0 but in the cases of R36. -/
structure FaultInv (s : State) : Prop where
  fault_iff : s.fault ≠ .none ↔ s.phase = .fault
  one_flag  : (s.eoiSeen && s.softEnd) = false ∧ (s.eoiSeen && s.mcsInvalid) = false ∧ (s.softEnd && s.mcsInvalid) = false
  no_flag   : s.phase = .idle ∨ s.phase = .header ∨ s.phase = .lzw →
    s.eoiSeen = false ∧ s.softEnd = false ∧ s.mcsInvalid = false
  invalid   : s.mcsInvalid = true → s.phase = .done ∧ s.mcs = 0
  info      : s.faultInfo ≠ 0 → s.phase = .fault ∨ s.mcsInvalid = true

/-- The invariant of the block between any two steps (10_state R54, with R32, R35, R37, R57). -/
structure BlockInv (s : State) : Prop where
  memories : MemoriesWf s
  reader   : ReaderInv s
  raster   : RasterInv s
  fault    : FaultInv s
  session  : FreshInv s ∨ SessionInv s

/-- Pixels are whole and opaque: `OUT` is a multiple of 4 bytes long and every fourth byte is 255 (10_state R39, 43_pixel_lookup
R194). -/
structure OpaquePixels (s : State) : Prop where
  whole : s.out.length % 4 = 0
  alpha : ∀ k, 4 * k + 3 < s.out.length → s.out[4 * k + 3]? = some 255

/-! ## The effect of a data code (42_lzw_codes R162, R164, R167 to R169, R172) -/

/-- `DictAppend` of `e` takes the dictionary of `s` to that of `t`: the cell `DICT_SIZE` and no other, and nothing when the
dictionary is full (R162). -/
def Appended (e : Str) (s t : State) : Prop :=
  (s.dictSize.toNat < 4096 → t.dictSize.toNat = s.dictSize.toNat + 1 ∧
    Memory.read t.dict s.dictSize.toNat = some e ∧
    ∀ a, a ≠ s.dictSize.toNat → Memory.read t.dict a = Memory.read s.dict a) ∧
  (4096 ≤ s.dictSize.toNat → t.dictSize = s.dictSize ∧ t.dict = s.dict)

/-- The width check after the dictionary of `t` has been settled (R172). -/
def Widened (s t : State) : Prop :=
  (t.dictSize.toNat = 2 ^ s.codeSize.toNat ∧ s.codeSize.toNat < 12 → t.codeSize.toNat = s.codeSize.toNat + 1) ∧
  (¬ (t.dictSize.toNat = 2 ^ s.codeSize.toNat ∧ s.codeSize.toNat < 12) → t.codeSize = s.codeSize)

/-- `t` is `s` after a data code `c` that outputs `p`, the dictionary's change apart: `IDX`, `PREV_CODE`, `LZW_STATE` and the
width; nothing else but the dictionary may differ. -/
def DataCodeEffect (c : Code) (p : Str) (s t : State) : Prop :=
  t.idx = s.idx ++ p.toList ∧ t.prevCode = c ∧ t.lzwState = .decoding ∧ Widened s t ∧
  t = { s with
        idx := t.idx, prevCode := t.prevCode, lzwState := t.lzwState,
        dict := t.dict, dictSize := t.dictSize, codeSize := t.codeSize }

end Sys2Proof.Machine
end

