-- ==== Sys2Proof/Certificates/Slice0/Obligations.lean ====
section
/-! DEFINITION. The statements for the provers, from the numbered rules of spec/. Each docstring names its rule. `t = { s with
f := t.f }` says that `t` and `s` may differ in the field `f` alone: it is the statement's frame. -/

open Sys2Proof Sys2Proof.Machine

/-! ## Encoding -/

/-- For every width and registers a code can be compared with, and every well-formed instruction that fits them, decoding its
encoding gives it back (30_encoding R91 to R104). -/
def Obligations.EncodeThenDecode : Prop :=
  ∀ (w : BitVec 4) (r : CodeRegs) (i : Instr),
    r.legal w = true → i.wellFormed = true → i.fits w r = true →
    decode (encode w r i).ctx (encode w r i).bits = .instr i

/-- The other direction for codes: what a code decodes to is well-formed, fits the registers, and is encoded by that code
(30_encoding R96: one class for each value). -/
def Obligations.DecodeThenEncodeCodes : Prop :=
  ∀ (w : BitVec 4) (r : CodeRegs) (v : Word) (i : Instr),
    r.legal w = true → decode (.code w r) v = .instr i →
    i.wellFormed = true ∧ i.fits w r = true ∧ encode w r i = ⟨.code w r, (codeBits w v).setWidth 32⟩

/-- Every instruction the decoder gives in any format is well-formed (R91, R92, R96). -/
def Obligations.DecodedIsWellFormed : Prop :=
  ∀ (ctx : Context) (v : Word) (i : Instr),
    (∀ w r, ctx = .code w r → r.legal w = true) → decode ctx v = .instr i → i.wellFormed = true

/-- The code classes of 30_encoding R96. -/
def Obligations.CodeClassConditions : Prop :=
  ∀ (w : BitVec 4) (r : CodeRegs) (c : Code), r.legal w = true →
    (decodeCode r c = .clear ↔ c.toNat = r.clear.toNat) ∧
    (decodeCode r c = .endOfInfo ↔ c.toNat = r.eoi.toNat) ∧
    (decodeCode r c = .root c ↔ c.toNat < r.clear.toNat) ∧
    (decodeCode r c = .entry c ↔ r.eoi.toNat < c.toNat ∧ c.toNat < r.dictSize.toNat) ∧
    (decodeCode r c = .kwkwk c ↔ c.toNat = r.dictSize.toNat ∧ r.prev.toNat ≠ r.clear.toNat) ∧
    (decodeCode r c = .nopred c ↔ c.toNat = r.dictSize.toNat ∧ r.prev.toNat = r.clear.toNat) ∧
    (decodeCode r c = .beyond c ↔ r.dictSize.toNat < c.toNat)

/-- Words written out from the spec's encodings (R91 to R97, R104; the three CTRL words of R104; the first code of vector V1). -/
def Obligations.SpecWordsDecode : Prop :=
  decode .mcsByte 0x02 = .instr (.mcs 2) ∧ decode .mcsByte 0x09 = .instr (.mcsInvalid 9) ∧
  decode .lenByte 0x00 = .instr .term ∧ decode .lenByte 0x03 = .instr (.blklen 3) ∧
  decode .dataByte 0x44 = .instr (.data 0x44) ∧
  decode (.code 3 (freshRegs 2)) 0x44 = .instr .clear ∧ decode (.code 4 (freshRegs 2)) 0x5 = .instr .endOfInfo ∧
  decode (.code 3 (freshRegs 2)) 0x3 = .instr (.root 3) ∧ decode (.code 3 (freshRegs 2)) 0x7 = .instr (.beyond 7) ∧
  decode .pixel 0x01 = .instr (.lookup 1) ∧
  decode (.regWrite 0) 0x2 = .instr .reset ∧ decode (.regWrite 0) 0x1 = .instr (.start false) ∧
  decode (.regWrite 0) 0x4 = .instr .close ∧ decode (.regWrite 4) 0x102 = .instr (.push 2) ∧
  decode (.regWrite 257) 0xAB0000FF = .instr (.ctwr 1 0xFF 0 0) ∧ decode (.regRead 1) 0 = .instr .rdstatus

/-! ## Reset -/

/-- The reset values of 10_state R57. -/
def Obligations.ResetValues : Prop :=
  State.reset.phase = .idle ∧ State.reset.lzwState = .awaitingFirstCode ∧
  State.reset.fault = .none ∧ State.reset.faultInfo = 0 ∧
  State.reset.eoiSeen = false ∧ State.reset.softEnd = false ∧ State.reset.mcsInvalid = false ∧
  State.reset.inp = [] ∧ State.reset.inClosed = false ∧ State.reset.inPos = 0 ∧
  State.reset.blkRem = 0 ∧ State.reset.acc = 0 ∧ State.reset.nbits = 0 ∧
  State.reset.mcs = 0 ∧ State.reset.clearCode = 0 ∧ State.reset.endCode = 0 ∧
  State.reset.codeSize = 0 ∧ State.reset.dictSize = 0 ∧ State.reset.prevCode = 0 ∧
  State.reset.idx = [] ∧ State.reset.out = [] ∧ State.reset.compPos = 0 ∧
  State.reset.ctSize = 0 ∧ (∀ i, Memory.read State.reset.ct i = none) ∧ State.reset.outAddr = 0

/-- The state after reset meets the invariant of the block. -/
def Obligations.ResetMeetsInv : Prop := BlockInv State.reset

/-- RESET (40_host_commands R120) completes in every state and leaves every item of the block at its reset value. The statement
says nothing of the model's own fields (log entries 1, 2, 5). -/
def Obligations.ResetCommand : Prop :=
  ∀ s : State, ∃ t, exec .reset s = .next t ∧
    t = { State.reset with agenda := t.agenda, rdata := t.rdata, session := t.session }

/-! ## Invariants -/

/-- The invariant of 10_state R54 (with R32, R35, R37, R173) is kept by every step from every state that meets it. -/
def Obligations.InvKeptByEveryStep : Prop :=
  ∀ s t : State, BlockInv s → step s = .next t → BlockInv t

/-- Every step keeps the memories in canonical form, from any state that has them so (log entry 7). -/
def Obligations.MemoriesStayCanonical : Prop :=
  ∀ s t : State, MemoriesWf s → step s = .next t → MemoriesWf t

/-- Every pixel of `OUT` is whole and has alpha 255, after any step from any state where it is so (43_pixel_lookup R194). -/
def Obligations.PixelsStayOpaque : Prop :=
  ∀ s t : State, OpaquePixels s → step s = .next t → OpaquePixels t

/-- The bit reader never needs a third data byte for one code (41_bit_reader R150): no step ends in the model's fault. -/
def Obligations.StepNeverFaults : Prop :=
  ∀ (s : State) (f : Fault), step s ≠ .fault f

/-- From a state that meets the invariant every step answers a next state: no fault, no refusal. -/
def Obligations.InvStatesAlwaysStep : Prop :=
  ∀ s : State, BlockInv s → ∃ t, step s = .next t

/-- With the input closed, a started session whose agenda is empty (no host move is due, so every turn is the engine's: log entry
1) ends in `DONE` or `FAULT` after finitely many steps (70_reset_and_hazards R259). -/
def Obligations.ClosedSessionsTerminate : Prop :=
  ∀ s : State, BlockInv s → s.agenda = [] → s.inClosed = true → s.phase ≠ .idle →
    ∃ n t, Host.Core.run Sys2Proof.core n s = .next t ∧ Terminal t

/-! ## The step -/

/-- When the bits at the cursor decode to an instruction, the step is that instruction's meaning, on the state with the
instruction's own bits consumed and the turn taken off the agenda. The formats are those of the header byte, a buffered code,
an index, the finishing step, a host write and a host read. -/
def Obligations.StepRunsDecodedInstruction : Prop :=
  (∀ (s u : State) (b : Byte) (i : Instr), EngineDue s u → u.phase = .header → u.inp[u.inPos]? = some b →
    decode .mcsByte (b.setWidth 32) = .instr i → step s = exec i { u with inPos := u.inPos + 1 }) ∧
  (∀ (s u : State) (i : Instr), EngineDue s u → u.phase = .lzw → u.codeSize.toNat ≤ u.nbits.toNat →
    decode (.code u.codeSize (codeRegs u)) (u.acc.setWidth 32) = .instr i →
    step s = exec i { u with acc := u.acc >>> u.codeSize.toNat, nbits := u.nbits - u.codeSize.setWidth 5 }) ∧
  (∀ (s u : State) (k : Byte) (i : Instr), EngineDue s u → u.phase = .composite → u.idx[u.compPos]? = some k →
    decode .pixel (k.setWidth 32) = .instr i → step s = exec i u) ∧
  (∀ (s u : State) (i : Instr), EngineDue s u → u.phase = .composite → u.compPos = u.idx.length →
    decode .noOperand 0 = .instr i → step s = exec i u) ∧
  (∀ (s : State) (reg : Nat) (v : Word) (r : List Turn) (i : Instr), s.agenda = .write reg v :: r →
    decode (.regWrite reg) v = .instr i → step s = exec i { s with agenda := r }) ∧
  (∀ (s : State) (reg : Nat) (r : List Turn) (i : Instr), s.agenda = .read reg :: r →
    decode (.regRead reg) 0 = .instr i → step s = exec i { s with agenda := r })

/-- `NextCode` (41_bit_reader R147), element by element. While fewer bits are buffered than the code needs, the byte at the
cursor is consumed and its instruction is run: `TERM` ends the step, and after `BLKLEN` and `DATA` it goes on; at the end of the
input the step ends there. With enough bits, the code is the `w` low bits of the accumulator; they leave it and the code's
instruction ends the step. -/
def Obligations.CodeStepReadsCode : Prop :=
  (∀ (n : Nat) (s : State) (b : Byte) (i : Instr),
    s.phase = .lzw → s.nbits.toNat < s.codeSize.toNat → s.inp[s.inPos]? = some b →
    decode (if s.blkRem = 0 then .lenByte else .dataByte) (b.setWidth 32) = .instr i →
    (i = .term → engineElements (n + 1) s = some (exec i { s with inPos := s.inPos + 1 })) ∧
    (i ≠ .term → ∃ t, exec i { s with inPos := s.inPos + 1 } = .next t ∧
      engineElements (n + 1) s = engineElements n t)) ∧
  (∀ (n : Nat) (s : State), s.phase = .lzw → s.nbits.toNat < s.codeSize.toNat → s.inp[s.inPos]? = none →
    s.inClosed = true → engineElements (n + 1) s =
      some (.next { s with fault := .unexpectedEndOfStream, faultInfo := 0, phase := .fault })) ∧
  (∀ (n : Nat) (s : State), s.phase = .lzw → s.codeSize.toNat ≤ 12 → s.codeSize.toNat ≤ s.nbits.toNat →
    ∃ (c : Code) (t : State), c.toNat = s.acc.toNat % 2 ^ s.codeSize.toNat ∧
      t.acc.toNat = s.acc.toNat / 2 ^ s.codeSize.toNat ∧ t.nbits.toNat = s.nbits.toNat - s.codeSize.toNat ∧
      t = { s with acc := t.acc, nbits := t.nbits } ∧
      engineElements (n + 1) s = some (exec (decodeCode (codeRegs s) c) t))

/-- Codes are packed least-significant bit first (20_memory R62, R63): a code that needs one more data byte of the sub-block, and
one that needs two, is the low `w` bits of the buffered bits with the bytes above them, the earlier byte below the later one; the
bits left over stay buffered. -/
def Obligations.CodeBitsComeLowFirst : Prop :=
  ∀ (s u : State) (x : Byte), EngineDue s u → u.phase = .lzw → u.codeSize.toNat ≤ 12 →
    u.acc.toNat < 2 ^ u.nbits.toNat → u.nbits.toNat < u.codeSize.toNat → u.inp[u.inPos]? = some x →
    (u.codeSize.toNat ≤ u.nbits.toNat + 8 → 1 ≤ u.blkRem.toNat → ∃ (c : Code) (t : State),
      c.toNat = (u.acc.toNat + x.toNat * 2 ^ u.nbits.toNat) % 2 ^ u.codeSize.toNat ∧
      t.acc.toNat = (u.acc.toNat + x.toNat * 2 ^ u.nbits.toNat) / 2 ^ u.codeSize.toNat ∧
      t.nbits.toNat = u.nbits.toNat + 8 - u.codeSize.toNat ∧ t.blkRem.toNat = u.blkRem.toNat - 1 ∧
      t = { u with inPos := u.inPos + 1, blkRem := t.blkRem, acc := t.acc, nbits := t.nbits } ∧
      step s = exec (decodeCode (codeRegs u) c) t) ∧
    (∀ y : Byte, u.nbits.toNat + 8 < u.codeSize.toNat → 2 ≤ u.blkRem.toNat → u.inp[u.inPos + 1]? = some y →
      ∃ (c : Code) (t : State),
        c.toNat = (u.acc.toNat + x.toNat * 2 ^ u.nbits.toNat + y.toNat * 2 ^ (u.nbits.toNat + 8)) % 2 ^ u.codeSize.toNat ∧
        t.acc.toNat =
          (u.acc.toNat + x.toNat * 2 ^ u.nbits.toNat + y.toNat * 2 ^ (u.nbits.toNat + 8)) / 2 ^ u.codeSize.toNat ∧
        t.nbits.toNat = u.nbits.toNat + 16 - u.codeSize.toNat ∧ t.blkRem.toNat = u.blkRem.toNat - 2 ∧
        t = { u with inPos := u.inPos + 2, blkRem := t.blkRem, acc := t.acc, nbits := t.nbits } ∧
        step s = exec (decodeCode (codeRegs u) c) t)

/-- `InByte()` and a held step (41_bit_reader R141): the byte at the cursor, or the end of the input, or a hold; a code step that
meets a hold at any of its bytes is not enabled; a step that is not enabled changes nothing. So a length byte whose data byte has
not come is not consumed either. -/
def Obligations.HeldStepConsumesNothing : Prop :=
  (∀ (s : State) (b : Byte), s.inp[s.inPos]? = some b → inByte s = .byte b { s with inPos := s.inPos + 1 }) ∧
  (∀ s : State, s.inp[s.inPos]? = none → s.inClosed = true → inByte s = .eos) ∧
  (∀ s : State, s.inp[s.inPos]? = none → s.inClosed = false → inByte s = .hold) ∧
  (∀ (n : Nat) (s : State), s.inp[s.inPos]? = none → s.inClosed = false →
    s.phase = .header ∨ (s.phase = .lzw ∧ s.nbits.toNat < s.codeSize.toNat) → engineElements (n + 1) s = none) ∧
  (∀ s u : State, EngineDue s u → engineStep u = none → step s = .next u) ∧
  (∀ (s u : State) (n : Byte), EngineDue s u → u.inClosed = false → u.phase = .lzw → u.nbits.toNat < u.codeSize.toNat →
    u.blkRem = 0 → u.inp[u.inPos]? = some n → n ≠ 0 → u.inp[u.inPos + 1]? = none → step s = .next u)

/-- With the input closed, a byte that is needed and missing raises `UnexpectedEndOfStream(0)`, the bytes taken so far counted
(41_bit_reader R146, 60_exceptions R221): no header byte; no length or data byte; a length byte whose data byte is missing; and at
any element of a code step. -/
def Obligations.EndOfInputRaises : Prop :=
  (∀ s u : State, EngineDue s u → u.inClosed = true → u.inp[u.inPos]? = none →
    u.phase = .header ∨ (u.phase = .lzw ∧ u.nbits.toNat < u.codeSize.toNat) →
    step s = .next { u with fault := .unexpectedEndOfStream, faultInfo := 0, phase := .fault }) ∧
  (∀ (s u : State) (n : Byte), EngineDue s u → u.inClosed = true → u.phase = .lzw → u.nbits.toNat < u.codeSize.toNat →
    u.blkRem = 0 → u.inp[u.inPos]? = some n → n ≠ 0 → u.inp[u.inPos + 1]? = none →
    step s = .next { u with
      inPos := u.inPos + 1, blkRem := n, fault := .unexpectedEndOfStream, faultInfo := 0, phase := .fault }) ∧
  (∀ (n : Nat) (s : State), s.inClosed = true → s.inp[s.inPos]? = none → s.phase = .lzw →
    s.nbits.toNat < s.codeSize.toNat → engineElements (n + 1) s =
      some (.next { s with fault := .unexpectedEndOfStream, faultInfo := 0, phase := .fault }))

/-- Arrival times do not matter (00_scope R12): a push that comes before an enabled engine step leads to the same state as the
same push after it. -/
def Obligations.PushCommutesWithEngineStep : Prop :=
  ∀ (s t : State) (b : Byte), s.inClosed = false → engineStep s = some (.next t) →
    engineStep { s with inp := s.inp ++ [b] } = some (.next { t with inp := t.inp ++ [b] })

/-! ## Framing -/

/-- The header step (41_bit_reader R142): the byte is consumed and is `MCS` when it is 2 to 8 and `MCS.INVALID` otherwise; what
each of the two does; and the end of the input before the byte. -/
def Obligations.HeaderStepRule : Prop :=
  (∀ (s u : State) (b : Byte), EngineDue s u → u.phase = .header → u.inp[u.inPos]? = some b →
    step s = exec (if b.toNat < 2 ∨ 8 < b.toNat then .mcsInvalid b else .mcs b) { u with inPos := u.inPos + 1 }) ∧
  (∀ s u : State, EngineDue s u → u.phase = .header → u.inp[u.inPos]? = none → u.inClosed = true →
    step s = .next { u with fault := .unexpectedEndOfStream, faultInfo := 0, phase := .fault }) ∧
  (∀ (b : Byte) (s : State), ∃ t, exec (.mcsInvalid b) s = .next t ∧
    t.mcsInvalid = true ∧ t.faultInfo.toNat = b.toNat ∧ t.phase = .done ∧
    t = { s with mcsInvalid := t.mcsInvalid, faultInfo := t.faultInfo, phase := t.phase }) ∧
  (∀ (n : Byte) (s : State), 2 ≤ n.toNat → n.toNat ≤ 8 → ∃ t, exec (.mcs n) s = .next t ∧
    t.mcs.toNat = n.toNat ∧ t.clearCode.toNat = 2 ^ n.toNat ∧ t.endCode.toNat = 2 ^ n.toNat + 1 ∧
    t.codeSize.toNat = n.toNat + 1 ∧ t.dictSize.toNat = 2 ^ n.toNat + 2 ∧ t.prevCode.toNat = 2 ^ n.toNat ∧
    (∀ c : Code, c.toNat < 2 ^ n.toNat → dictRead t c = some { first := c.setWidth 8, rest := [] }) ∧
    t.lzwState = .awaitingFirstCode ∧ t.phase = .lzw ∧
    t = { s with
          mcs := t.mcs, clearCode := t.clearCode, endCode := t.endCode, codeSize := t.codeSize, dict := t.dict,
          dictSize := t.dictSize, prevCode := t.prevCode, lzwState := t.lzwState, phase := t.phase })

/-- `TERM` (41_bit_reader R144): what it does, and a code step that needs bits and finds it, the terminator consumed. -/
def Obligations.TermEndsLoopSoftly : Prop :=
  (∀ s : State, exec .term s = .next { s with softEnd := true, lzwState := .done, phase := .composite, compPos := 0 }) ∧
  (∀ s u : State, EngineDue s u → u.phase = .lzw → u.nbits.toNat < u.codeSize.toNat → u.blkRem = 0 →
    u.inp[u.inPos]? = some 0 → step s = .next { u with
      inPos := u.inPos + 1, softEnd := true, lzwState := .done, phase := .composite, compPos := 0 })

/-- `BLKLEN n` (41_bit_reader R143). -/
def Obligations.BlklenOpensBlock : Prop :=
  ∀ (n : Byte) (s : State), exec (.blklen n) s = .next { s with blkRem := n }

/-- `DATA x` (41_bit_reader R145), in numbers, for every accumulator the bit reader holds when it asks for a byte. -/
def Obligations.DataBuffersByte : Prop :=
  ∀ (x : Byte) (s : State), 0 < s.blkRem.toNat → s.nbits.toNat ≤ 11 → s.acc.toNat < 2 ^ s.nbits.toNat →
    ∃ t, exec (.data x) s = .next t ∧ t.blkRem.toNat = s.blkRem.toNat - 1 ∧ t.nbits.toNat = s.nbits.toNat + 8 ∧
      t.acc.toNat = s.acc.toNat + x.toNat * 2 ^ s.nbits.toNat ∧
      t = { s with blkRem := t.blkRem, nbits := t.nbits, acc := t.acc }

/-! ## Codes -/

/-- `CLEAR` (42_lzw_codes R165): the roots alone are decodable, the width is the initial one, there is no predecessor. -/
def Obligations.ClearRestoresRoots : Prop :=
  ∀ s : State, 2 ≤ s.mcs.toNat → s.mcs.toNat ≤ 8 → s.clearCode.toNat = 2 ^ s.mcs.toNat →
    s.endCode.toNat = s.clearCode.toNat + 1 → ∃ t, exec .clear s = .next t ∧
    t.dictSize.toNat = s.clearCode.toNat + 2 ∧ t.codeSize.toNat = s.mcs.toNat + 1 ∧
    t.prevCode.toNat = s.clearCode.toNat ∧ t.lzwState = .cleared ∧
    (∀ c : Code, c.toNat < s.clearCode.toNat → dictRead t c = some { first := c.setWidth 8, rest := [] }) ∧
    t = { s with
          dict := t.dict, dictSize := t.dictSize, codeSize := t.codeSize, prevCode := t.prevCode, lzwState := t.lzwState }

/-- `END` (42_lzw_codes R166). -/
def Obligations.EndEndsLoop : Prop :=
  ∀ s : State,
    exec .endOfInfo s = .next { s with eoiSeen := true, lzwState := .done, phase := .composite, compPos := 0 }

/-- `ROOT c` (42_lzw_codes R167), with the cells it reads: with a predecessor it appends one entry, without one it appends none. -/
def Obligations.RootOutputsAndAppends : Prop :=
  ∀ (s : State) (c : Code) (p : Str), c.toNat < s.clearCode.toNat → dictRead s c = some p →
    (s.prevCode.toNat = s.clearCode.toNat → ∃ t, exec (.root c) s = .next t ∧ DataCodeEffect c p s t ∧
      t.dict = s.dict ∧ t.dictSize = s.dictSize) ∧
    (∀ q, s.prevCode.toNat ≠ s.clearCode.toNat → dictRead s s.prevCode = some q →
      ∃ t, exec (.root c) s = .next t ∧ DataCodeEffect c p s t ∧ Appended (q.snoc p.first) s t)

/-- `ENTRY c` (42_lzw_codes R168), with the cells it reads. -/
def Obligations.EntryOutputsAndAppends : Prop :=
  ∀ (s : State) (c : Code) (p : Str), s.endCode.toNat < c.toNat → c.toNat < s.dictSize.toNat → dictRead s c = some p →
    (s.prevCode.toNat = s.clearCode.toNat → ∃ t, exec (.entry c) s = .next t ∧ DataCodeEffect c p s t ∧
      t.dict = s.dict ∧ t.dictSize = s.dictSize) ∧
    (∀ q, s.prevCode.toNat ≠ s.clearCode.toNat → dictRead s s.prevCode = some q →
      ∃ t, exec (.entry c) s = .next t ∧ DataCodeEffect c p s t ∧ Appended (q.snoc p.first) s t)

/-- `KWKWK` (42_lzw_codes R169): the new string is output and becomes `DICT[c]`, a data entry. -/
def Obligations.KwkwkOutputsAndAppends : Prop :=
  ∀ (s : State) (c : Code) (q : Str), c.toNat = s.dictSize.toNat → s.prevCode.toNat ≠ s.clearCode.toNat →
    dictRead s s.prevCode = some q → s.endCode.toNat = s.clearCode.toNat + 1 →
    s.clearCode.toNat + 2 ≤ s.dictSize.toNat →
    ∃ t, exec (.kwkwk c) s = .next t ∧ DataCodeEffect c (q.snoc q.first) s t ∧ Appended (q.snoc q.first) s t ∧
      dictRead t c = some (q.snoc q.first)

/-- A code step never reads a `DICT` cell that holds no string: the model refuses instead (93 U1, log entry 6). -/
def Obligations.UndefinedCellsRefuse : Prop :=
  ∀ (s : State) (c : Code),
    (dictRead s c = none →
      exec (.root c) s = .refused .dictCellUndefined ∧ exec (.entry c) s = .refused .dictCellUndefined) ∧
    (dictRead s s.prevCode = none → s.prevCode.toNat ≠ s.clearCode.toNat →
      exec (.root c) s = .refused .dictCellUndefined ∧ exec (.entry c) s = .refused .dictCellUndefined) ∧
    (dictRead s s.prevCode = none → exec (.kwkwk c) s = .refused .dictCellUndefined)

/-- `BEYOND` and `NOPRED` (42_lzw_codes R170, R171): `raise InvalidCode(c)`, nothing else changes. -/
def Obligations.IllegalCodesRaise : Prop :=
  ∀ (c : Code) (s : State), ∃ t, exec (.beyond c) s = .next t ∧ exec (.nopred c) s = .next t ∧
    t.fault = .invalidCode ∧ t.faultInfo.toNat = c.toNat ∧ t.phase = .fault ∧
    t = { s with fault := t.fault, faultInfo := t.faultInfo, phase := t.phase }

/-- `WidthCheck()` (42_lzw_codes R172). -/
def Obligations.WidthCheckRule : Prop :=
  ∀ s : State, Widened s (widthCheck s) ∧ widthCheck s = { s with codeSize := (widthCheck s).codeSize }

/-- `DictAppend` (42_lzw_codes R162): one cell and no other, or nothing at all once 4096 entries are reached. -/
def Obligations.DictAppendRule : Prop :=
  ∀ (p : Str) (s : State), Appended p s (dictAppend p s) ∧
    dictAppend p s = { s with dict := (dictAppend p s).dict, dictSize := (dictAppend p s).dictSize }

/-- With a full dictionary (42_lzw_codes R176): the width is 12; every code is legal; `ROOT` and `ENTRY` output their string and
set `PREV_CODE` and leave the dictionary as it is; only `CLEAR` shrinks it. -/
def Obligations.FullDictionaryAcceptsEveryCode : Prop :=
  ∀ s : State, BlockInv s → s.phase = .lzw → s.dictSize.toNat = 4096 →
    s.codeSize.toNat = 12 ∧
    (∀ c : Code, decodeCode (codeRegs s) c = .clear ∨ decodeCode (codeRegs s) c = .endOfInfo ∨
      decodeCode (codeRegs s) c = .root c ∨ decodeCode (codeRegs s) c = .entry c) ∧
    (∀ (c : Code) (p : Str), dictRead s c = some p → ∃ t, exec (.root c) s = .next t ∧ exec (.entry c) s = .next t ∧
      t.idx = s.idx ++ p.toList ∧ t.prevCode = c ∧
      t = { s with idx := t.idx, prevCode := t.prevCode, lzwState := .decoding }) ∧
    (∀ t, step s = .next t → ¬ ResetDue s → t.dictSize = s.dictSize ∨
      (t.lzwState = .cleared ∧ t.dictSize.toNat = s.clearCode.toNat + 2))

/-- Without a predecessor no code is an `ENTRY` or a `KWKWK`: only the root alphabet is decodable (42_lzw_codes R168, R173). -/
def Obligations.OnlyRootsWithoutPredecessor : Prop :=
  ∀ s : State, BlockInv s → s.phase = .lzw → s.prevCode.toNat = s.clearCode.toNat →
    ∀ c : Code, decodeCode (codeRegs s) c ≠ .entry c ∧ decodeCode (codeRegs s) c ≠ .kwkwk c

/-- The width changes in three places only (30_encoding R99): the header step and `CLEAR` set it to `MCS + 1`, and the width check
adds 1 when the table has filled it. -/
def Obligations.WidthChangesInThreePlaces : Prop :=
  ∀ s t : State, BlockInv s → step s = .next t → ¬ ResetDue s → t.codeSize ≠ s.codeSize →
    (s.phase = .header ∧ t.codeSize.toNat = t.mcs.toNat + 1) ∨
    (s.phase = .lzw ∧ t.lzwState = .cleared ∧ t.codeSize.toNat = s.mcs.toNat + 1) ∨
    (s.phase = .lzw ∧ t.dictSize.toNat = 2 ^ s.codeSize.toNat ∧ s.codeSize.toNat < 12 ∧
      t.codeSize.toNat = s.codeSize.toNat + 1)

/-! ## Pixels -/

/-- `LOOKUP i` (43_pixel_lookup R190, R191). With `i < CT_SIZE`: one pixel; its colour is that of the cell the host wrote, and
some colour when the host wrote none (it holds for every value of the free colour). With `i >= CT_SIZE`: the fault and no pixel.
-/
def Obligations.LookupRule : Prop :=
  (∀ (i : Byte) (s : State), i.toNat < s.ctSize.toNat →
    ∃ r g b : Byte, exec (.lookup i) s = .next { s with out := s.out ++ [r, g, b, 255], compPos := s.compPos + 1 } ∧
      ∀ c : Rgb, Memory.read s.ct i.toNat = some c → c.toNat = r.toNat + 256 * g.toNat + 65536 * b.toNat) ∧
  (∀ (i : Byte) (s : State), s.ctSize.toNat ≤ i.toNat → ∃ t, exec (.lookup i) s = .next t ∧
    t.fault = .colorIndexOutOfRange ∧ t.faultInfo.toNat = i.toNat ∧ t.phase = .fault ∧
    t = { s with fault := t.fault, faultInfo := t.faultInfo, phase := t.phase })

/-- `FINISH` (43_pixel_lookup R192). -/
def Obligations.FinishEndsSession : Prop :=
  ∀ s : State, exec .finish s = .next { s with phase := .done }

/-- The result (43_pixel_lookup R193): `OUT` in `DONE`, with four bytes for each decoded index, and nothing in every other phase;
nothing with an invalid min-code-size. -/
def Obligations.ResultCoversEveryIndex : Prop :=
  ∀ s : State, BlockInv s →
    (s.phase = .done → result s = s.out ∧ (result s).length = 4 * s.idx.length) ∧
    (s.phase ≠ .done → result s = []) ∧ (s.mcsInvalid = true → result s = [] ∧ s.phase = .done)

/-! ## Host commands that write -/

/-- `START` (40_host_commands R121) and the CLOSE its word may ask for too (R122, R130). The operand is bit 2 of the word: that such
a write is one instruction with an operand is the model's reading (log entry 10). `PHASE` changes only from `IDLE`; the input is
closed in every phase. -/
def Obligations.StartCommand : Prop :=
  ∀ (c : Bool) (s : State),
    (s.phase = .idle → exec (.start c) s = .next { s with phase := .header, inClosed := s.inClosed || c }) ∧
    (s.phase ≠ .idle → exec (.start c) s = .next { s with inClosed := s.inClosed || c })

/-- `CLOSE` (40_host_commands R122). -/
def Obligations.CloseCommand : Prop :=
  ∀ s : State, exec .close s = .next { s with inClosed := true }

/-- `CTSIZE v` (40_host_commands R123). -/
def Obligations.CtsizeCommand : Prop :=
  ∀ (v : BitVec 9) (s : State),
    (s.phase = .idle ∧ v.toNat ≤ 256 → exec (.ctsize v) s = .next { s with ctSize := v }) ∧
    (¬ (s.phase = .idle ∧ v.toNat ≤ 256) → exec (.ctsize v) s = .next s)

/-- `CTWR i, rgb` (40_host_commands R124): the cell, its mark and no other cell; outside `IDLE` nothing. -/
def Obligations.CtwrCommand : Prop :=
  ∀ (i r g b : Byte) (s : State),
    (s.phase = .idle → ∃ t, exec (.ctwr i r g b) s = .next t ∧ t = { s with ct := t.ct } ∧
      (∃ c : Rgb, Memory.read t.ct i.toNat = some c ∧ c.toNat = r.toNat + 256 * g.toNat + 65536 * b.toNat) ∧
      ∀ a, a ≠ i.toNat → Memory.read t.ct a = Memory.read s.ct a) ∧
    (s.phase ≠ .idle → exec (.ctwr i r g b) s = .next s)

/-- `PUSH b` (40_host_commands R125). -/
def Obligations.PushCommand : Prop :=
  ∀ (b : Byte) (s : State),
    (s.inClosed = false → exec (.push b) s = .next { s with inp := s.inp ++ [b] }) ∧
    (s.inClosed = true → exec (.push b) s = .next s)

/-- `SETADDR k` (40_host_commands R126). -/
def Obligations.SetaddrCommand : Prop :=
  ∀ (k : Word) (s : State), exec (.setaddr k) s = .next { s with outAddr := k }

/-- Several `CTRL` bits in one write (40_host_commands R130), as the step runs the write at the head of the agenda (log entry 1).
-/
def Obligations.CtrlBitsTogether : Prop :=
  ∀ (s : State) (v : Word) (r : List Turn), s.agenda = .write 0 v :: r →
    (v.getLsbD 1 = true → step s = exec .reset { s with agenda := r }) ∧
    (v.getLsbD 1 = false → step s = .next { s with
      agenda := r, inClosed := s.inClosed || v.getLsbD 2,
      phase := if v.getLsbD 0 = true ∧ s.phase = .idle then .header else s.phase })

/-- Accesses to read-only, write-only and reserved registers (10_state R53): a write changes nothing and a read returns 0. -/
def Obligations.OtherAccessesIgnored : Prop :=
  (∀ (s : State) (reg : Nat) (v : Word) (r : List Turn), s.agenda = .write reg v :: r →
    reg ∈ [1, 2, 5, 6, 8, 9, 10] ∨ (11 ≤ reg ∧ reg ≤ 255) ∨ 511 < reg → step s = .next { s with agenda := r }) ∧
  (∀ (s : State) (reg : Nat) (r : List Turn), s.agenda = .read reg :: r →
    reg = 0 ∨ reg = 4 ∨ (11 ≤ reg ∧ reg ≤ 255) ∨ 511 < reg → step s = .next { s with agenda := r, rdata := 0 })

/-! ## Host commands that read -/

/-- `RDSTATUS` returns (in `rdata`, log entry 2) the fields of 10_state R40, with the numbers of `PHASE`, `LZW_STATE` and `FAULT` (R33, R34, R35), and changes
nothing. -/
def Obligations.StatusRead : Prop :=
  ∀ s : State, ∃ (v : Word) (p l f : Nat), exec .rdstatus s = .next { s with rdata := v } ∧
    v.toNat = p + 8 * l + 32 * f + 256 * s.eoiSeen.toNat + 512 * s.softEnd.toNat + 1024 * s.mcsInvalid.toNat +
      2048 * s.inClosed.toNat ∧
    (s.phase = .idle → p = 0) ∧ (s.phase = .header → p = 1) ∧ (s.phase = .lzw → p = 2) ∧
    (s.phase = .composite → p = 3) ∧ (s.phase = .done → p = 4) ∧ (s.phase = .fault → p = 5) ∧
    (s.lzwState = .awaitingFirstCode → l = 0) ∧ (s.lzwState = .decoding → l = 1) ∧ (s.lzwState = .cleared → l = 2) ∧
    (s.lzwState = .done → l = 3) ∧
    (s.fault = .none → f = 0) ∧ (s.fault = .unexpectedEndOfStream → f = 1) ∧ (s.fault = .invalidCode → f = 2) ∧
    (s.fault = .colorIndexOutOfRange → f = 3)

/-- `RDINFO`, `RDCTSIZE`, `RDPOS`, `RDADDR`, `RDLZW`, `RDPREV` return the words of 10_state R43, R44, R46, R48, R50, R51 and change
nothing. -/
def Obligations.RegisterReads : Prop :=
  ∀ s : State,
    (∃ v : Word, exec .rdinfo s = .next { s with rdata := v } ∧ v.toNat = s.faultInfo.toNat) ∧
    (∃ v : Word, exec .rdctsize s = .next { s with rdata := v } ∧ v.toNat = s.ctSize.toNat) ∧
    (∃ v : Word, exec .rdpos s = .next { s with rdata := v } ∧ v.toNat = s.inPos % 2 ^ 32) ∧
    exec .rdaddr s = .next { s with rdata := s.outAddr } ∧
    (∃ v : Word, exec .rdlzw s = .next { s with rdata := v } ∧
      v.toNat = s.codeSize.toNat + 16 * s.mcs.toNat + 256 * s.dictSize.toNat) ∧
    (∃ v : Word, exec .rdprev s = .next { s with rdata := v } ∧ v.toNat = s.prevCode.toNat)

/-- Register `256 + i` (10_state R52): a read returns the cell's colour, and some 24-bit value when it was never written, bits
31:24 zero; a write in `IDLE` stores bits 23:0 of the word in that cell alone; a write in another phase changes nothing. -/
def Obligations.ColourTableRegister : Prop :=
  (∀ (i : Byte) (s : State), ∃ v : Word, exec (.rdct i) s = .next { s with rdata := v } ∧ v.toNat < 2 ^ 24 ∧
    ∀ c : Rgb, Memory.read s.ct i.toNat = some c → v.toNat = c.toNat) ∧
  (∀ (s : State) (i : Byte) (v : Word) (r : List Turn), s.agenda = .write (256 + i.toNat) v :: r →
    (s.phase = .idle → ∃ t, step s = .next t ∧ t = { s with agenda := r, ct := t.ct } ∧
      (∃ c : Rgb, Memory.read t.ct i.toNat = some c ∧ c.toNat = v.toNat % 2 ^ 24) ∧
      ∀ a, a ≠ i.toNat → Memory.read t.ct a = Memory.read s.ct a) ∧
    (s.phase ≠ .idle → step s = .next { s with agenda := r }))

/-- `RDCOUNT` (10_state R47): the pixels of the result in `DONE`, 0 in every other phase. -/
def Obligations.CountRead : Prop :=
  ∀ s : State, ∃ v : Word, exec .rdcount s = .next { s with rdata := v } ∧
    (s.phase = .done → v.toNat = s.out.length / 4 % 2 ^ 32) ∧ (s.phase ≠ .done → v = 0)

/-- `RDPIX` (40_host_commands R128, 10_state R49): pixel `OUT_ADDR` little-endian in `DONE`, else 0. -/
def Obligations.PixelRead : Prop :=
  ∀ s : State, ∃ v : Word, exec .rdpix s = .next { s with rdata := v } ∧
    (∀ r g b a : Byte, s.phase = .done → s.outAddr.toNat < s.out.length / 4 →
      s.out[4 * s.outAddr.toNat]? = some r → s.out[4 * s.outAddr.toNat + 1]? = some g →
      s.out[4 * s.outAddr.toNat + 2]? = some b → s.out[4 * s.outAddr.toNat + 3]? = some a →
      v.toNat = r.toNat + 256 * g.toNat + 65536 * b.toNat + 16777216 * a.toNat) ∧
    (¬ (s.phase = .done ∧ s.outAddr.toNat < s.out.length / 4) → v = 0)

/-! ## Whole-machine rules -/

/-- `DONE` and `FAULT` are terminal (60_exceptions R229): no engine step is enabled, and no step but a RESET changes `PHASE`,
`FAULT` or `FAULT_INFO`. -/
def Obligations.TerminalPhasesAreFinal : Prop :=
  ∀ s t : State, Terminal s → engineStep s = none ∧
    (step s = .next t → ¬ ResetDue s → t.phase = s.phase ∧ t.fault = s.fault ∧ t.faultInfo = s.faultInfo)

/-- The colour table is fixed from START on (70_reset_and_hazards R254): outside `IDLE` no step but a RESET changes it, and RESET
forgets it. -/
def Obligations.ColourTableFrozen : Prop :=
  (∀ s t : State, s.phase ≠ .idle → step s = .next t → ¬ ResetDue s → t.ct = s.ct ∧ t.ctSize = s.ctSize) ∧
  (∀ s : State, ∃ t, exec .reset s = .next t ∧ t.ctSize = 0 ∧ ∀ a, Memory.read t.ct a = none)

/-- `IN` only grows, and only while it is open; `IN_POS` only increases; only RESET reopens the input (10_state R21, R22). -/
def Obligations.InputOnlyGrows : Prop :=
  ∀ s t : State, step s = .next t → ¬ ResetDue s →
    s.inp <+: t.inp ∧ s.inPos ≤ t.inPos ∧ (s.inClosed = true → t.inp = s.inp ∧ t.inClosed = true)

/-- Laziness and the end of consumption (41_bit_reader R149): a code step that finds enough bits buffered consumes no byte; after
`END`, `TERM` or an invalid min-code-size (in every phase but `HEADER` and `LZW`) the bit reader's registers stay. -/
def Obligations.ConsumptionEndsWithLoop : Prop :=
  ∀ s t : State, step s = .next t → ¬ ResetDue s →
    (s.phase = .lzw → s.codeSize.toNat ≤ s.nbits.toNat → t.inPos = s.inPos ∧ t.blkRem = s.blkRem) ∧
    (s.phase ≠ .header → s.phase ≠ .lzw →
      t.inPos = s.inPos ∧ t.blkRem = s.blkRem ∧ t.acc = s.acc ∧ t.nbits = s.nbits)

/-- No pixel is made before the code loop has ended, and the code loop's registers rest once it has (43_pixel_lookup R195). -/
def Obligations.PhasesAreSequential : Prop :=
  ∀ s t : State, step s = .next t → ¬ ResetDue s →
    (s.phase ≠ .composite → t.out = s.out) ∧
    (s.phase ≠ .header → s.phase ≠ .lzw → t.idx = s.idx ∧ t.dict = s.dict ∧ t.dictSize = s.dictSize ∧
      t.prevCode = s.prevCode ∧ t.codeSize = s.codeSize ∧ t.lzwState = s.lzwState)

/-- Faults are precise (60_exceptions R228): an engine step that ends in `FAULT` changes nothing but the bit reader's registers
and the fault's own. -/
def Obligations.FaultsArePrecise : Prop :=
  ∀ s u t : State, EngineDue s u → u.phase ≠ .fault → step s = .next t → t.phase = .fault →
    t = { u with
          inPos := t.inPos, blkRem := t.blkRem, acc := t.acc, nbits := t.nbits,
          fault := t.fault, faultInfo := t.faultInfo, phase := t.phase } ∧ t.fault ≠ .none

/-- No fault is cleared but by RESET, and a set flag stays set (60_exceptions R230, 10_state R37). -/
def Obligations.FaultsAndFlagsAreSticky : Prop :=
  ∀ s t : State, step s = .next t → ¬ ResetDue s → (s.fault ≠ .none → s.phase = .fault) →
    (s.fault ≠ .none → t.fault = s.fault) ∧ (s.eoiSeen = true → t.eoiSeen = true) ∧
    (s.softEnd = true → t.softEnd = true) ∧ (s.mcsInvalid = true → t.mcsInvalid = true)
end

