-- ==== Sys2Proof/Laws/Memory.lean ====
section
/-! SUPPORT. The laws of a memory of cells: a read after a write, the canonical form, which cells are listed. -/

namespace Sys2Proof.Machine

variable {α : Type}

@[simp] theorem Memory.read_nil (a : Nat) : Memory.read ([] : Memory α) a = none := rfl

theorem Memory.read_cons (k : Nat) (v : α) (m : Memory α) (a : Nat) :
    Memory.read ((k, v) :: m) a = if k = a then some v else Memory.read m a := rfl

theorem Memory.read_write_self (m : Memory α) (a : Nat) (v : α) :
    Memory.read (Memory.write m a v) a = some v := by
  induction m with
  | nil => simp [Memory.write, Memory.read]
  | cons e m ih =>
    obtain ⟨k, u⟩ := e
    unfold Memory.write
    split
    · simp [Memory.read]
    · split
      · simp [Memory.read]
      · next h => simp [Memory.read, Ne.symm h, ih]

theorem Memory.read_write_other (m : Memory α) {a b : Nat} (v : α) (h : b ≠ a) :
    Memory.read (Memory.write m a v) b = Memory.read m b := by
  induction m with
  | nil => simp [Memory.write, Memory.read, h.symm]
  | cons e m ih =>
    obtain ⟨k, u⟩ := e
    unfold Memory.write
    split
    · simp [Memory.read, h.symm]
    · split
      · next hk => subst hk; simp [Memory.read, h.symm]
      · simp [Memory.read, ih]

/-- The cells a write leaves listed: those listed before and the one written. -/
theorem Memory.mem_write {m : Memory α} {a : Nat} {v : α} {e : Nat × α}
    (h : e ∈ Memory.write m a v) : e = (a, v) ∨ e ∈ m := by
  induction m with
  | nil => simpa [Memory.write] using h
  | cons x m ih =>
    obtain ⟨k, u⟩ := x
    unfold Memory.write at h
    split at h
    · simpa using h
    · split at h
      · simp only [List.mem_cons] at h ⊢; tauto
      · simp only [List.mem_cons] at h ⊢
        rcases h with h | h
        · tauto
        · have := ih h; tauto

/-- A write keeps the canonical form. -/
theorem Memory.write_wf {m : Memory α} (a : Nat) (v : α) (h : Memory.wf m) : Memory.wf (Memory.write m a v) := by
  induction m with
  | nil => simp [Memory.wf, Memory.write]
  | cons x m ih =>
    obtain ⟨k, u⟩ := x
    obtain ⟨hk, hm⟩ := List.pairwise_cons.1 h
    unfold Memory.write
    split
    · next hlt =>
      refine List.pairwise_cons.2 ⟨fun e he => ?_, h⟩
      rcases List.mem_cons.1 he with rfl | he
      · exact hlt
      · exact lt_trans hlt (hk e he)
    · split
      · next heq => subst heq; exact List.pairwise_cons.2 ⟨hk, hm⟩
      · next hlt hne =>
        refine List.pairwise_cons.2 ⟨fun e he => ?_, ih hm⟩
        rcases Memory.mem_write he with rfl | he
        · show k < a; omega
        · exact hk e he

/-- A cell that reads as a value is listed. -/
theorem Memory.mem_of_read {m : Memory α} {a : Nat} {v : α} (h : Memory.read m a = some v) : (a, v) ∈ m := by
  induction m with
  | nil => simp at h
  | cons x m ih =>
    obtain ⟨k, u⟩ := x
    rw [Memory.read_cons] at h
    split at h
    · next hk => subst hk; simp_all
    · exact List.mem_cons_of_mem _ (ih h)

/-! ## The root cells (42_lzw_codes R161) -/

theorem rootCells_wf (n : Nat) : Memory.wf (rootCells n) := by
  unfold Memory.wf rootCells
  exact List.pairwise_map.2 List.pairwise_lt_range

theorem rootCells_cells {n : Nat} {e : Nat × Str} (h : e ∈ rootCells n) : e.1 < n := by
  simp only [rootCells, List.mem_map, List.mem_range] at h
  obtain ⟨i, hi, rfl⟩ := h
  exact hi

theorem read_map_cells {f : Nat → α} {l : List Nat} {a : Nat} (h : a ∈ l) :
    Memory.read (l.map (fun i => (i, f i))) a = some (f a) := by
  induction l with
  | nil => simp at h
  | cons k l ih =>
    simp only [List.map_cons, Memory.read_cons]
    split
    · next hk => rw [hk]
    · next hk => exact ih ((List.mem_cons.1 h).resolve_left (Ne.symm hk))

/-- A root cell holds its own index. -/
theorem read_rootCells {n a : Nat} (h : a < n) :
    Memory.read (rootCells n) a = some { first := BitVec.ofNat 8 a, rest := [] } :=
  read_map_cells (f := fun i => ({ first := BitVec.ofNat 8 i, rest := [] } : Str)) (List.mem_range.2 h)

end Sys2Proof.Machine
end

