-- ==== Sys2Proof/Laws/State.lean ====
section
/-! SUPPORT. What each named update does to each field of State: one lemma per field, so that no proof unfolds a record
update. -/

namespace Sys2Proof.Machine

variable (s : State)

/-! `advance` -/

@[simp] theorem advance_inp : (advance s).inp = s.inp := rfl
@[simp] theorem advance_inClosed : (advance s).inClosed = s.inClosed := rfl
@[simp] theorem advance_inPos : (advance s).inPos = s.inPos + 1 := rfl
@[simp] theorem advance_blkRem : (advance s).blkRem = s.blkRem := rfl
@[simp] theorem advance_acc : (advance s).acc = s.acc := rfl
@[simp] theorem advance_nbits : (advance s).nbits = s.nbits := rfl
@[simp] theorem advance_mcs : (advance s).mcs = s.mcs := rfl
@[simp] theorem advance_clearCode : (advance s).clearCode = s.clearCode := rfl
@[simp] theorem advance_endCode : (advance s).endCode = s.endCode := rfl
@[simp] theorem advance_codeSize : (advance s).codeSize = s.codeSize := rfl
@[simp] theorem advance_dict : (advance s).dict = s.dict := rfl
@[simp] theorem advance_dictSize : (advance s).dictSize = s.dictSize := rfl
@[simp] theorem advance_prevCode : (advance s).prevCode = s.prevCode := rfl
@[simp] theorem advance_lzwState : (advance s).lzwState = s.lzwState := rfl
@[simp] theorem advance_idx : (advance s).idx = s.idx := rfl
@[simp] theorem advance_compPos : (advance s).compPos = s.compPos := rfl
@[simp] theorem advance_ct : (advance s).ct = s.ct := rfl
@[simp] theorem advance_ctSize : (advance s).ctSize = s.ctSize := rfl
@[simp] theorem advance_out : (advance s).out = s.out := rfl
@[simp] theorem advance_phase : (advance s).phase = s.phase := rfl
@[simp] theorem advance_fault : (advance s).fault = s.fault := rfl
@[simp] theorem advance_faultInfo : (advance s).faultInfo = s.faultInfo := rfl
@[simp] theorem advance_eoiSeen : (advance s).eoiSeen = s.eoiSeen := rfl
@[simp] theorem advance_softEnd : (advance s).softEnd = s.softEnd := rfl
@[simp] theorem advance_mcsInvalid : (advance s).mcsInvalid = s.mcsInvalid := rfl
@[simp] theorem advance_outAddr : (advance s).outAddr = s.outAddr := rfl
@[simp] theorem advance_agenda : (advance s).agenda = s.agenda := rfl
@[simp] theorem advance_rdata : (advance s).rdata = s.rdata := rfl
@[simp] theorem advance_session : (advance s).session = s.session := rfl

/-! `appendInput` -/

@[simp] theorem appendInput_inp (b : Byte) : (appendInput b s).inp = s.inp ++ [b] := rfl
@[simp] theorem appendInput_inClosed (b : Byte) : (appendInput b s).inClosed = s.inClosed := rfl
@[simp] theorem appendInput_inPos (b : Byte) : (appendInput b s).inPos = s.inPos := rfl
@[simp] theorem appendInput_blkRem (b : Byte) : (appendInput b s).blkRem = s.blkRem := rfl
@[simp] theorem appendInput_acc (b : Byte) : (appendInput b s).acc = s.acc := rfl
@[simp] theorem appendInput_nbits (b : Byte) : (appendInput b s).nbits = s.nbits := rfl
@[simp] theorem appendInput_mcs (b : Byte) : (appendInput b s).mcs = s.mcs := rfl
@[simp] theorem appendInput_clearCode (b : Byte) : (appendInput b s).clearCode = s.clearCode := rfl
@[simp] theorem appendInput_endCode (b : Byte) : (appendInput b s).endCode = s.endCode := rfl
@[simp] theorem appendInput_codeSize (b : Byte) : (appendInput b s).codeSize = s.codeSize := rfl
@[simp] theorem appendInput_dict (b : Byte) : (appendInput b s).dict = s.dict := rfl
@[simp] theorem appendInput_dictSize (b : Byte) : (appendInput b s).dictSize = s.dictSize := rfl
@[simp] theorem appendInput_prevCode (b : Byte) : (appendInput b s).prevCode = s.prevCode := rfl
@[simp] theorem appendInput_lzwState (b : Byte) : (appendInput b s).lzwState = s.lzwState := rfl
@[simp] theorem appendInput_idx (b : Byte) : (appendInput b s).idx = s.idx := rfl
@[simp] theorem appendInput_compPos (b : Byte) : (appendInput b s).compPos = s.compPos := rfl
@[simp] theorem appendInput_ct (b : Byte) : (appendInput b s).ct = s.ct := rfl
@[simp] theorem appendInput_ctSize (b : Byte) : (appendInput b s).ctSize = s.ctSize := rfl
@[simp] theorem appendInput_out (b : Byte) : (appendInput b s).out = s.out := rfl
@[simp] theorem appendInput_phase (b : Byte) : (appendInput b s).phase = s.phase := rfl
@[simp] theorem appendInput_fault (b : Byte) : (appendInput b s).fault = s.fault := rfl
@[simp] theorem appendInput_faultInfo (b : Byte) : (appendInput b s).faultInfo = s.faultInfo := rfl
@[simp] theorem appendInput_eoiSeen (b : Byte) : (appendInput b s).eoiSeen = s.eoiSeen := rfl
@[simp] theorem appendInput_softEnd (b : Byte) : (appendInput b s).softEnd = s.softEnd := rfl
@[simp] theorem appendInput_mcsInvalid (b : Byte) : (appendInput b s).mcsInvalid = s.mcsInvalid := rfl
@[simp] theorem appendInput_outAddr (b : Byte) : (appendInput b s).outAddr = s.outAddr := rfl
@[simp] theorem appendInput_agenda (b : Byte) : (appendInput b s).agenda = s.agenda := rfl
@[simp] theorem appendInput_rdata (b : Byte) : (appendInput b s).rdata = s.rdata := rfl
@[simp] theorem appendInput_session (b : Byte) : (appendInput b s).session = s.session := rfl

/-! `openBlock` -/

@[simp] theorem openBlock_inp (n : Byte) : (openBlock n s).inp = s.inp := rfl
@[simp] theorem openBlock_inClosed (n : Byte) : (openBlock n s).inClosed = s.inClosed := rfl
@[simp] theorem openBlock_inPos (n : Byte) : (openBlock n s).inPos = s.inPos := rfl
@[simp] theorem openBlock_blkRem (n : Byte) : (openBlock n s).blkRem = n := rfl
@[simp] theorem openBlock_acc (n : Byte) : (openBlock n s).acc = s.acc := rfl
@[simp] theorem openBlock_nbits (n : Byte) : (openBlock n s).nbits = s.nbits := rfl
@[simp] theorem openBlock_mcs (n : Byte) : (openBlock n s).mcs = s.mcs := rfl
@[simp] theorem openBlock_clearCode (n : Byte) : (openBlock n s).clearCode = s.clearCode := rfl
@[simp] theorem openBlock_endCode (n : Byte) : (openBlock n s).endCode = s.endCode := rfl
@[simp] theorem openBlock_codeSize (n : Byte) : (openBlock n s).codeSize = s.codeSize := rfl
@[simp] theorem openBlock_dict (n : Byte) : (openBlock n s).dict = s.dict := rfl
@[simp] theorem openBlock_dictSize (n : Byte) : (openBlock n s).dictSize = s.dictSize := rfl
@[simp] theorem openBlock_prevCode (n : Byte) : (openBlock n s).prevCode = s.prevCode := rfl
@[simp] theorem openBlock_lzwState (n : Byte) : (openBlock n s).lzwState = s.lzwState := rfl
@[simp] theorem openBlock_idx (n : Byte) : (openBlock n s).idx = s.idx := rfl
@[simp] theorem openBlock_compPos (n : Byte) : (openBlock n s).compPos = s.compPos := rfl
@[simp] theorem openBlock_ct (n : Byte) : (openBlock n s).ct = s.ct := rfl
@[simp] theorem openBlock_ctSize (n : Byte) : (openBlock n s).ctSize = s.ctSize := rfl
@[simp] theorem openBlock_out (n : Byte) : (openBlock n s).out = s.out := rfl
@[simp] theorem openBlock_phase (n : Byte) : (openBlock n s).phase = s.phase := rfl
@[simp] theorem openBlock_fault (n : Byte) : (openBlock n s).fault = s.fault := rfl
@[simp] theorem openBlock_faultInfo (n : Byte) : (openBlock n s).faultInfo = s.faultInfo := rfl
@[simp] theorem openBlock_eoiSeen (n : Byte) : (openBlock n s).eoiSeen = s.eoiSeen := rfl
@[simp] theorem openBlock_softEnd (n : Byte) : (openBlock n s).softEnd = s.softEnd := rfl
@[simp] theorem openBlock_mcsInvalid (n : Byte) : (openBlock n s).mcsInvalid = s.mcsInvalid := rfl
@[simp] theorem openBlock_outAddr (n : Byte) : (openBlock n s).outAddr = s.outAddr := rfl
@[simp] theorem openBlock_agenda (n : Byte) : (openBlock n s).agenda = s.agenda := rfl
@[simp] theorem openBlock_rdata (n : Byte) : (openBlock n s).rdata = s.rdata := rfl
@[simp] theorem openBlock_session (n : Byte) : (openBlock n s).session = s.session := rfl

/-! `bufferByte` -/

@[simp] theorem bufferByte_inp (x : Byte) : (bufferByte x s).inp = s.inp := rfl
@[simp] theorem bufferByte_inClosed (x : Byte) : (bufferByte x s).inClosed = s.inClosed := rfl
@[simp] theorem bufferByte_inPos (x : Byte) : (bufferByte x s).inPos = s.inPos := rfl
@[simp] theorem bufferByte_blkRem (x : Byte) : (bufferByte x s).blkRem = s.blkRem - 1 := rfl
@[simp] theorem bufferByte_acc (x : Byte) : (bufferByte x s).acc = s.acc ||| (x.setWidth 19 <<< s.nbits.toNat) := rfl
@[simp] theorem bufferByte_nbits (x : Byte) : (bufferByte x s).nbits = s.nbits + 8 := rfl
@[simp] theorem bufferByte_mcs (x : Byte) : (bufferByte x s).mcs = s.mcs := rfl
@[simp] theorem bufferByte_clearCode (x : Byte) : (bufferByte x s).clearCode = s.clearCode := rfl
@[simp] theorem bufferByte_endCode (x : Byte) : (bufferByte x s).endCode = s.endCode := rfl
@[simp] theorem bufferByte_codeSize (x : Byte) : (bufferByte x s).codeSize = s.codeSize := rfl
@[simp] theorem bufferByte_dict (x : Byte) : (bufferByte x s).dict = s.dict := rfl
@[simp] theorem bufferByte_dictSize (x : Byte) : (bufferByte x s).dictSize = s.dictSize := rfl
@[simp] theorem bufferByte_prevCode (x : Byte) : (bufferByte x s).prevCode = s.prevCode := rfl
@[simp] theorem bufferByte_lzwState (x : Byte) : (bufferByte x s).lzwState = s.lzwState := rfl
@[simp] theorem bufferByte_idx (x : Byte) : (bufferByte x s).idx = s.idx := rfl
@[simp] theorem bufferByte_compPos (x : Byte) : (bufferByte x s).compPos = s.compPos := rfl
@[simp] theorem bufferByte_ct (x : Byte) : (bufferByte x s).ct = s.ct := rfl
@[simp] theorem bufferByte_ctSize (x : Byte) : (bufferByte x s).ctSize = s.ctSize := rfl
@[simp] theorem bufferByte_out (x : Byte) : (bufferByte x s).out = s.out := rfl
@[simp] theorem bufferByte_phase (x : Byte) : (bufferByte x s).phase = s.phase := rfl
@[simp] theorem bufferByte_fault (x : Byte) : (bufferByte x s).fault = s.fault := rfl
@[simp] theorem bufferByte_faultInfo (x : Byte) : (bufferByte x s).faultInfo = s.faultInfo := rfl
@[simp] theorem bufferByte_eoiSeen (x : Byte) : (bufferByte x s).eoiSeen = s.eoiSeen := rfl
@[simp] theorem bufferByte_softEnd (x : Byte) : (bufferByte x s).softEnd = s.softEnd := rfl
@[simp] theorem bufferByte_mcsInvalid (x : Byte) : (bufferByte x s).mcsInvalid = s.mcsInvalid := rfl
@[simp] theorem bufferByte_outAddr (x : Byte) : (bufferByte x s).outAddr = s.outAddr := rfl
@[simp] theorem bufferByte_agenda (x : Byte) : (bufferByte x s).agenda = s.agenda := rfl
@[simp] theorem bufferByte_rdata (x : Byte) : (bufferByte x s).rdata = s.rdata := rfl
@[simp] theorem bufferByte_session (x : Byte) : (bufferByte x s).session = s.session := rfl

/-! `dropCode` -/

@[simp] theorem dropCode_inp : (dropCode s).inp = s.inp := rfl
@[simp] theorem dropCode_inClosed : (dropCode s).inClosed = s.inClosed := rfl
@[simp] theorem dropCode_inPos : (dropCode s).inPos = s.inPos := rfl
@[simp] theorem dropCode_blkRem : (dropCode s).blkRem = s.blkRem := rfl
@[simp] theorem dropCode_acc : (dropCode s).acc = s.acc >>> s.codeSize.toNat := rfl
@[simp] theorem dropCode_nbits : (dropCode s).nbits = s.nbits - s.codeSize.setWidth 5 := rfl
@[simp] theorem dropCode_mcs : (dropCode s).mcs = s.mcs := rfl
@[simp] theorem dropCode_clearCode : (dropCode s).clearCode = s.clearCode := rfl
@[simp] theorem dropCode_endCode : (dropCode s).endCode = s.endCode := rfl
@[simp] theorem dropCode_codeSize : (dropCode s).codeSize = s.codeSize := rfl
@[simp] theorem dropCode_dict : (dropCode s).dict = s.dict := rfl
@[simp] theorem dropCode_dictSize : (dropCode s).dictSize = s.dictSize := rfl
@[simp] theorem dropCode_prevCode : (dropCode s).prevCode = s.prevCode := rfl
@[simp] theorem dropCode_lzwState : (dropCode s).lzwState = s.lzwState := rfl
@[simp] theorem dropCode_idx : (dropCode s).idx = s.idx := rfl
@[simp] theorem dropCode_compPos : (dropCode s).compPos = s.compPos := rfl
@[simp] theorem dropCode_ct : (dropCode s).ct = s.ct := rfl
@[simp] theorem dropCode_ctSize : (dropCode s).ctSize = s.ctSize := rfl
@[simp] theorem dropCode_out : (dropCode s).out = s.out := rfl
@[simp] theorem dropCode_phase : (dropCode s).phase = s.phase := rfl
@[simp] theorem dropCode_fault : (dropCode s).fault = s.fault := rfl
@[simp] theorem dropCode_faultInfo : (dropCode s).faultInfo = s.faultInfo := rfl
@[simp] theorem dropCode_eoiSeen : (dropCode s).eoiSeen = s.eoiSeen := rfl
@[simp] theorem dropCode_softEnd : (dropCode s).softEnd = s.softEnd := rfl
@[simp] theorem dropCode_mcsInvalid : (dropCode s).mcsInvalid = s.mcsInvalid := rfl
@[simp] theorem dropCode_outAddr : (dropCode s).outAddr = s.outAddr := rfl
@[simp] theorem dropCode_agenda : (dropCode s).agenda = s.agenda := rfl
@[simp] theorem dropCode_rdata : (dropCode s).rdata = s.rdata := rfl
@[simp] theorem dropCode_session : (dropCode s).session = s.session := rfl

/-! `dictReset` -/

@[simp] theorem dictReset_inp : (dictReset s).inp = s.inp := rfl
@[simp] theorem dictReset_inClosed : (dictReset s).inClosed = s.inClosed := rfl
@[simp] theorem dictReset_inPos : (dictReset s).inPos = s.inPos := rfl
@[simp] theorem dictReset_blkRem : (dictReset s).blkRem = s.blkRem := rfl
@[simp] theorem dictReset_acc : (dictReset s).acc = s.acc := rfl
@[simp] theorem dictReset_nbits : (dictReset s).nbits = s.nbits := rfl
@[simp] theorem dictReset_mcs : (dictReset s).mcs = s.mcs := rfl
@[simp] theorem dictReset_clearCode : (dictReset s).clearCode = s.clearCode := rfl
@[simp] theorem dictReset_endCode : (dictReset s).endCode = s.endCode := rfl
@[simp] theorem dictReset_codeSize : (dictReset s).codeSize = s.codeSize := rfl
@[simp] theorem dictReset_dict : (dictReset s).dict = rootCells s.clearCode.toNat := rfl
@[simp] theorem dictReset_dictSize : (dictReset s).dictSize = s.clearCode.setWidth 13 + 2 := rfl
@[simp] theorem dictReset_prevCode : (dictReset s).prevCode = s.prevCode := rfl
@[simp] theorem dictReset_lzwState : (dictReset s).lzwState = s.lzwState := rfl
@[simp] theorem dictReset_idx : (dictReset s).idx = s.idx := rfl
@[simp] theorem dictReset_compPos : (dictReset s).compPos = s.compPos := rfl
@[simp] theorem dictReset_ct : (dictReset s).ct = s.ct := rfl
@[simp] theorem dictReset_ctSize : (dictReset s).ctSize = s.ctSize := rfl
@[simp] theorem dictReset_out : (dictReset s).out = s.out := rfl
@[simp] theorem dictReset_phase : (dictReset s).phase = s.phase := rfl
@[simp] theorem dictReset_fault : (dictReset s).fault = s.fault := rfl
@[simp] theorem dictReset_faultInfo : (dictReset s).faultInfo = s.faultInfo := rfl
@[simp] theorem dictReset_eoiSeen : (dictReset s).eoiSeen = s.eoiSeen := rfl
@[simp] theorem dictReset_softEnd : (dictReset s).softEnd = s.softEnd := rfl
@[simp] theorem dictReset_mcsInvalid : (dictReset s).mcsInvalid = s.mcsInvalid := rfl
@[simp] theorem dictReset_outAddr : (dictReset s).outAddr = s.outAddr := rfl
@[simp] theorem dictReset_agenda : (dictReset s).agenda = s.agenda := rfl
@[simp] theorem dictReset_rdata : (dictReset s).rdata = s.rdata := rfl
@[simp] theorem dictReset_session : (dictReset s).session = s.session := rfl

/-! `emit` -/

@[simp] theorem emit_inp (p : Str) : (emit p s).inp = s.inp := rfl
@[simp] theorem emit_inClosed (p : Str) : (emit p s).inClosed = s.inClosed := rfl
@[simp] theorem emit_inPos (p : Str) : (emit p s).inPos = s.inPos := rfl
@[simp] theorem emit_blkRem (p : Str) : (emit p s).blkRem = s.blkRem := rfl
@[simp] theorem emit_acc (p : Str) : (emit p s).acc = s.acc := rfl
@[simp] theorem emit_nbits (p : Str) : (emit p s).nbits = s.nbits := rfl
@[simp] theorem emit_mcs (p : Str) : (emit p s).mcs = s.mcs := rfl
@[simp] theorem emit_clearCode (p : Str) : (emit p s).clearCode = s.clearCode := rfl
@[simp] theorem emit_endCode (p : Str) : (emit p s).endCode = s.endCode := rfl
@[simp] theorem emit_codeSize (p : Str) : (emit p s).codeSize = s.codeSize := rfl
@[simp] theorem emit_dict (p : Str) : (emit p s).dict = s.dict := rfl
@[simp] theorem emit_dictSize (p : Str) : (emit p s).dictSize = s.dictSize := rfl
@[simp] theorem emit_prevCode (p : Str) : (emit p s).prevCode = s.prevCode := rfl
@[simp] theorem emit_lzwState (p : Str) : (emit p s).lzwState = s.lzwState := rfl
@[simp] theorem emit_idx (p : Str) : (emit p s).idx = s.idx ++ p.toList := rfl
@[simp] theorem emit_compPos (p : Str) : (emit p s).compPos = s.compPos := rfl
@[simp] theorem emit_ct (p : Str) : (emit p s).ct = s.ct := rfl
@[simp] theorem emit_ctSize (p : Str) : (emit p s).ctSize = s.ctSize := rfl
@[simp] theorem emit_out (p : Str) : (emit p s).out = s.out := rfl
@[simp] theorem emit_phase (p : Str) : (emit p s).phase = s.phase := rfl
@[simp] theorem emit_fault (p : Str) : (emit p s).fault = s.fault := rfl
@[simp] theorem emit_faultInfo (p : Str) : (emit p s).faultInfo = s.faultInfo := rfl
@[simp] theorem emit_eoiSeen (p : Str) : (emit p s).eoiSeen = s.eoiSeen := rfl
@[simp] theorem emit_softEnd (p : Str) : (emit p s).softEnd = s.softEnd := rfl
@[simp] theorem emit_mcsInvalid (p : Str) : (emit p s).mcsInvalid = s.mcsInvalid := rfl
@[simp] theorem emit_outAddr (p : Str) : (emit p s).outAddr = s.outAddr := rfl
@[simp] theorem emit_agenda (p : Str) : (emit p s).agenda = s.agenda := rfl
@[simp] theorem emit_rdata (p : Str) : (emit p s).rdata = s.rdata := rfl
@[simp] theorem emit_session (p : Str) : (emit p s).session = s.session := rfl

/-! `endCodeLoop` -/

@[simp] theorem endCodeLoop_inp : (endCodeLoop s).inp = s.inp := rfl
@[simp] theorem endCodeLoop_inClosed : (endCodeLoop s).inClosed = s.inClosed := rfl
@[simp] theorem endCodeLoop_inPos : (endCodeLoop s).inPos = s.inPos := rfl
@[simp] theorem endCodeLoop_blkRem : (endCodeLoop s).blkRem = s.blkRem := rfl
@[simp] theorem endCodeLoop_acc : (endCodeLoop s).acc = s.acc := rfl
@[simp] theorem endCodeLoop_nbits : (endCodeLoop s).nbits = s.nbits := rfl
@[simp] theorem endCodeLoop_mcs : (endCodeLoop s).mcs = s.mcs := rfl
@[simp] theorem endCodeLoop_clearCode : (endCodeLoop s).clearCode = s.clearCode := rfl
@[simp] theorem endCodeLoop_endCode : (endCodeLoop s).endCode = s.endCode := rfl
@[simp] theorem endCodeLoop_codeSize : (endCodeLoop s).codeSize = s.codeSize := rfl
@[simp] theorem endCodeLoop_dict : (endCodeLoop s).dict = s.dict := rfl
@[simp] theorem endCodeLoop_dictSize : (endCodeLoop s).dictSize = s.dictSize := rfl
@[simp] theorem endCodeLoop_prevCode : (endCodeLoop s).prevCode = s.prevCode := rfl
@[simp] theorem endCodeLoop_lzwState : (endCodeLoop s).lzwState = .done := rfl
@[simp] theorem endCodeLoop_idx : (endCodeLoop s).idx = s.idx := rfl
@[simp] theorem endCodeLoop_compPos : (endCodeLoop s).compPos = 0 := rfl
@[simp] theorem endCodeLoop_ct : (endCodeLoop s).ct = s.ct := rfl
@[simp] theorem endCodeLoop_ctSize : (endCodeLoop s).ctSize = s.ctSize := rfl
@[simp] theorem endCodeLoop_out : (endCodeLoop s).out = s.out := rfl
@[simp] theorem endCodeLoop_phase : (endCodeLoop s).phase = .composite := rfl
@[simp] theorem endCodeLoop_fault : (endCodeLoop s).fault = s.fault := rfl
@[simp] theorem endCodeLoop_faultInfo : (endCodeLoop s).faultInfo = s.faultInfo := rfl
@[simp] theorem endCodeLoop_eoiSeen : (endCodeLoop s).eoiSeen = s.eoiSeen := rfl
@[simp] theorem endCodeLoop_softEnd : (endCodeLoop s).softEnd = s.softEnd := rfl
@[simp] theorem endCodeLoop_mcsInvalid : (endCodeLoop s).mcsInvalid = s.mcsInvalid := rfl
@[simp] theorem endCodeLoop_outAddr : (endCodeLoop s).outAddr = s.outAddr := rfl
@[simp] theorem endCodeLoop_agenda : (endCodeLoop s).agenda = s.agenda := rfl
@[simp] theorem endCodeLoop_rdata : (endCodeLoop s).rdata = s.rdata := rfl
@[simp] theorem endCodeLoop_session : (endCodeLoop s).session = s.session := rfl

/-! `raise` -/

@[simp] theorem raise_inp (k : FaultKind) (w : BitVec 16) : (raise k w s).inp = s.inp := rfl
@[simp] theorem raise_inClosed (k : FaultKind) (w : BitVec 16) : (raise k w s).inClosed = s.inClosed := rfl
@[simp] theorem raise_inPos (k : FaultKind) (w : BitVec 16) : (raise k w s).inPos = s.inPos := rfl
@[simp] theorem raise_blkRem (k : FaultKind) (w : BitVec 16) : (raise k w s).blkRem = s.blkRem := rfl
@[simp] theorem raise_acc (k : FaultKind) (w : BitVec 16) : (raise k w s).acc = s.acc := rfl
@[simp] theorem raise_nbits (k : FaultKind) (w : BitVec 16) : (raise k w s).nbits = s.nbits := rfl
@[simp] theorem raise_mcs (k : FaultKind) (w : BitVec 16) : (raise k w s).mcs = s.mcs := rfl
@[simp] theorem raise_clearCode (k : FaultKind) (w : BitVec 16) : (raise k w s).clearCode = s.clearCode := rfl
@[simp] theorem raise_endCode (k : FaultKind) (w : BitVec 16) : (raise k w s).endCode = s.endCode := rfl
@[simp] theorem raise_codeSize (k : FaultKind) (w : BitVec 16) : (raise k w s).codeSize = s.codeSize := rfl
@[simp] theorem raise_dict (k : FaultKind) (w : BitVec 16) : (raise k w s).dict = s.dict := rfl
@[simp] theorem raise_dictSize (k : FaultKind) (w : BitVec 16) : (raise k w s).dictSize = s.dictSize := rfl
@[simp] theorem raise_prevCode (k : FaultKind) (w : BitVec 16) : (raise k w s).prevCode = s.prevCode := rfl
@[simp] theorem raise_lzwState (k : FaultKind) (w : BitVec 16) : (raise k w s).lzwState = s.lzwState := rfl
@[simp] theorem raise_idx (k : FaultKind) (w : BitVec 16) : (raise k w s).idx = s.idx := rfl
@[simp] theorem raise_compPos (k : FaultKind) (w : BitVec 16) : (raise k w s).compPos = s.compPos := rfl
@[simp] theorem raise_ct (k : FaultKind) (w : BitVec 16) : (raise k w s).ct = s.ct := rfl
@[simp] theorem raise_ctSize (k : FaultKind) (w : BitVec 16) : (raise k w s).ctSize = s.ctSize := rfl
@[simp] theorem raise_out (k : FaultKind) (w : BitVec 16) : (raise k w s).out = s.out := rfl
@[simp] theorem raise_phase (k : FaultKind) (w : BitVec 16) : (raise k w s).phase = .fault := rfl
@[simp] theorem raise_fault (k : FaultKind) (w : BitVec 16) : (raise k w s).fault = k := rfl
@[simp] theorem raise_faultInfo (k : FaultKind) (w : BitVec 16) : (raise k w s).faultInfo = w := rfl
@[simp] theorem raise_eoiSeen (k : FaultKind) (w : BitVec 16) : (raise k w s).eoiSeen = s.eoiSeen := rfl
@[simp] theorem raise_softEnd (k : FaultKind) (w : BitVec 16) : (raise k w s).softEnd = s.softEnd := rfl
@[simp] theorem raise_mcsInvalid (k : FaultKind) (w : BitVec 16) : (raise k w s).mcsInvalid = s.mcsInvalid := rfl
@[simp] theorem raise_outAddr (k : FaultKind) (w : BitVec 16) : (raise k w s).outAddr = s.outAddr := rfl
@[simp] theorem raise_agenda (k : FaultKind) (w : BitVec 16) : (raise k w s).agenda = s.agenda := rfl
@[simp] theorem raise_rdata (k : FaultKind) (w : BitVec 16) : (raise k w s).rdata = s.rdata := rfl
@[simp] theorem raise_session (k : FaultKind) (w : BitVec 16) : (raise k w s).session = s.session := rfl

/-! `returnWord` -/

@[simp] theorem returnWord_inp (v : Word) : (returnWord v s).inp = s.inp := rfl
@[simp] theorem returnWord_inClosed (v : Word) : (returnWord v s).inClosed = s.inClosed := rfl
@[simp] theorem returnWord_inPos (v : Word) : (returnWord v s).inPos = s.inPos := rfl
@[simp] theorem returnWord_blkRem (v : Word) : (returnWord v s).blkRem = s.blkRem := rfl
@[simp] theorem returnWord_acc (v : Word) : (returnWord v s).acc = s.acc := rfl
@[simp] theorem returnWord_nbits (v : Word) : (returnWord v s).nbits = s.nbits := rfl
@[simp] theorem returnWord_mcs (v : Word) : (returnWord v s).mcs = s.mcs := rfl
@[simp] theorem returnWord_clearCode (v : Word) : (returnWord v s).clearCode = s.clearCode := rfl
@[simp] theorem returnWord_endCode (v : Word) : (returnWord v s).endCode = s.endCode := rfl
@[simp] theorem returnWord_codeSize (v : Word) : (returnWord v s).codeSize = s.codeSize := rfl
@[simp] theorem returnWord_dict (v : Word) : (returnWord v s).dict = s.dict := rfl
@[simp] theorem returnWord_dictSize (v : Word) : (returnWord v s).dictSize = s.dictSize := rfl
@[simp] theorem returnWord_prevCode (v : Word) : (returnWord v s).prevCode = s.prevCode := rfl
@[simp] theorem returnWord_lzwState (v : Word) : (returnWord v s).lzwState = s.lzwState := rfl
@[simp] theorem returnWord_idx (v : Word) : (returnWord v s).idx = s.idx := rfl
@[simp] theorem returnWord_compPos (v : Word) : (returnWord v s).compPos = s.compPos := rfl
@[simp] theorem returnWord_ct (v : Word) : (returnWord v s).ct = s.ct := rfl
@[simp] theorem returnWord_ctSize (v : Word) : (returnWord v s).ctSize = s.ctSize := rfl
@[simp] theorem returnWord_out (v : Word) : (returnWord v s).out = s.out := rfl
@[simp] theorem returnWord_phase (v : Word) : (returnWord v s).phase = s.phase := rfl
@[simp] theorem returnWord_fault (v : Word) : (returnWord v s).fault = s.fault := rfl
@[simp] theorem returnWord_faultInfo (v : Word) : (returnWord v s).faultInfo = s.faultInfo := rfl
@[simp] theorem returnWord_eoiSeen (v : Word) : (returnWord v s).eoiSeen = s.eoiSeen := rfl
@[simp] theorem returnWord_softEnd (v : Word) : (returnWord v s).softEnd = s.softEnd := rfl
@[simp] theorem returnWord_mcsInvalid (v : Word) : (returnWord v s).mcsInvalid = s.mcsInvalid := rfl
@[simp] theorem returnWord_outAddr (v : Word) : (returnWord v s).outAddr = s.outAddr := rfl
@[simp] theorem returnWord_agenda (v : Word) : (returnWord v s).agenda = s.agenda := rfl
@[simp] theorem returnWord_rdata (v : Word) : (returnWord v s).rdata = v := rfl
@[simp] theorem returnWord_session (v : Word) : (returnWord v s).session = s.session := rfl

/-! `setEoiSeen` -/

@[simp] theorem setEoiSeen_inp : (setEoiSeen s).inp = s.inp := rfl
@[simp] theorem setEoiSeen_inClosed : (setEoiSeen s).inClosed = s.inClosed := rfl
@[simp] theorem setEoiSeen_inPos : (setEoiSeen s).inPos = s.inPos := rfl
@[simp] theorem setEoiSeen_blkRem : (setEoiSeen s).blkRem = s.blkRem := rfl
@[simp] theorem setEoiSeen_acc : (setEoiSeen s).acc = s.acc := rfl
@[simp] theorem setEoiSeen_nbits : (setEoiSeen s).nbits = s.nbits := rfl
@[simp] theorem setEoiSeen_mcs : (setEoiSeen s).mcs = s.mcs := rfl
@[simp] theorem setEoiSeen_clearCode : (setEoiSeen s).clearCode = s.clearCode := rfl
@[simp] theorem setEoiSeen_endCode : (setEoiSeen s).endCode = s.endCode := rfl
@[simp] theorem setEoiSeen_codeSize : (setEoiSeen s).codeSize = s.codeSize := rfl
@[simp] theorem setEoiSeen_dict : (setEoiSeen s).dict = s.dict := rfl
@[simp] theorem setEoiSeen_dictSize : (setEoiSeen s).dictSize = s.dictSize := rfl
@[simp] theorem setEoiSeen_prevCode : (setEoiSeen s).prevCode = s.prevCode := rfl
@[simp] theorem setEoiSeen_lzwState : (setEoiSeen s).lzwState = s.lzwState := rfl
@[simp] theorem setEoiSeen_idx : (setEoiSeen s).idx = s.idx := rfl
@[simp] theorem setEoiSeen_compPos : (setEoiSeen s).compPos = s.compPos := rfl
@[simp] theorem setEoiSeen_ct : (setEoiSeen s).ct = s.ct := rfl
@[simp] theorem setEoiSeen_ctSize : (setEoiSeen s).ctSize = s.ctSize := rfl
@[simp] theorem setEoiSeen_out : (setEoiSeen s).out = s.out := rfl
@[simp] theorem setEoiSeen_phase : (setEoiSeen s).phase = s.phase := rfl
@[simp] theorem setEoiSeen_fault : (setEoiSeen s).fault = s.fault := rfl
@[simp] theorem setEoiSeen_faultInfo : (setEoiSeen s).faultInfo = s.faultInfo := rfl
@[simp] theorem setEoiSeen_eoiSeen : (setEoiSeen s).eoiSeen = true := rfl
@[simp] theorem setEoiSeen_softEnd : (setEoiSeen s).softEnd = s.softEnd := rfl
@[simp] theorem setEoiSeen_mcsInvalid : (setEoiSeen s).mcsInvalid = s.mcsInvalid := rfl
@[simp] theorem setEoiSeen_outAddr : (setEoiSeen s).outAddr = s.outAddr := rfl
@[simp] theorem setEoiSeen_agenda : (setEoiSeen s).agenda = s.agenda := rfl
@[simp] theorem setEoiSeen_rdata : (setEoiSeen s).rdata = s.rdata := rfl
@[simp] theorem setEoiSeen_session : (setEoiSeen s).session = s.session := rfl

/-! `setSoftEnd` -/

@[simp] theorem setSoftEnd_inp : (setSoftEnd s).inp = s.inp := rfl
@[simp] theorem setSoftEnd_inClosed : (setSoftEnd s).inClosed = s.inClosed := rfl
@[simp] theorem setSoftEnd_inPos : (setSoftEnd s).inPos = s.inPos := rfl
@[simp] theorem setSoftEnd_blkRem : (setSoftEnd s).blkRem = s.blkRem := rfl
@[simp] theorem setSoftEnd_acc : (setSoftEnd s).acc = s.acc := rfl
@[simp] theorem setSoftEnd_nbits : (setSoftEnd s).nbits = s.nbits := rfl
@[simp] theorem setSoftEnd_mcs : (setSoftEnd s).mcs = s.mcs := rfl
@[simp] theorem setSoftEnd_clearCode : (setSoftEnd s).clearCode = s.clearCode := rfl
@[simp] theorem setSoftEnd_endCode : (setSoftEnd s).endCode = s.endCode := rfl
@[simp] theorem setSoftEnd_codeSize : (setSoftEnd s).codeSize = s.codeSize := rfl
@[simp] theorem setSoftEnd_dict : (setSoftEnd s).dict = s.dict := rfl
@[simp] theorem setSoftEnd_dictSize : (setSoftEnd s).dictSize = s.dictSize := rfl
@[simp] theorem setSoftEnd_prevCode : (setSoftEnd s).prevCode = s.prevCode := rfl
@[simp] theorem setSoftEnd_lzwState : (setSoftEnd s).lzwState = s.lzwState := rfl
@[simp] theorem setSoftEnd_idx : (setSoftEnd s).idx = s.idx := rfl
@[simp] theorem setSoftEnd_compPos : (setSoftEnd s).compPos = s.compPos := rfl
@[simp] theorem setSoftEnd_ct : (setSoftEnd s).ct = s.ct := rfl
@[simp] theorem setSoftEnd_ctSize : (setSoftEnd s).ctSize = s.ctSize := rfl
@[simp] theorem setSoftEnd_out : (setSoftEnd s).out = s.out := rfl
@[simp] theorem setSoftEnd_phase : (setSoftEnd s).phase = s.phase := rfl
@[simp] theorem setSoftEnd_fault : (setSoftEnd s).fault = s.fault := rfl
@[simp] theorem setSoftEnd_faultInfo : (setSoftEnd s).faultInfo = s.faultInfo := rfl
@[simp] theorem setSoftEnd_eoiSeen : (setSoftEnd s).eoiSeen = s.eoiSeen := rfl
@[simp] theorem setSoftEnd_softEnd : (setSoftEnd s).softEnd = true := rfl
@[simp] theorem setSoftEnd_mcsInvalid : (setSoftEnd s).mcsInvalid = s.mcsInvalid := rfl
@[simp] theorem setSoftEnd_outAddr : (setSoftEnd s).outAddr = s.outAddr := rfl
@[simp] theorem setSoftEnd_agenda : (setSoftEnd s).agenda = s.agenda := rfl
@[simp] theorem setSoftEnd_rdata : (setSoftEnd s).rdata = s.rdata := rfl
@[simp] theorem setSoftEnd_session : (setSoftEnd s).session = s.session := rfl

/-! `setMcsInvalid` -/

@[simp] theorem setMcsInvalid_inp (b : Byte) : (setMcsInvalid b s).inp = s.inp := rfl
@[simp] theorem setMcsInvalid_inClosed (b : Byte) : (setMcsInvalid b s).inClosed = s.inClosed := rfl
@[simp] theorem setMcsInvalid_inPos (b : Byte) : (setMcsInvalid b s).inPos = s.inPos := rfl
@[simp] theorem setMcsInvalid_blkRem (b : Byte) : (setMcsInvalid b s).blkRem = s.blkRem := rfl
@[simp] theorem setMcsInvalid_acc (b : Byte) : (setMcsInvalid b s).acc = s.acc := rfl
@[simp] theorem setMcsInvalid_nbits (b : Byte) : (setMcsInvalid b s).nbits = s.nbits := rfl
@[simp] theorem setMcsInvalid_mcs (b : Byte) : (setMcsInvalid b s).mcs = s.mcs := rfl
@[simp] theorem setMcsInvalid_clearCode (b : Byte) : (setMcsInvalid b s).clearCode = s.clearCode := rfl
@[simp] theorem setMcsInvalid_endCode (b : Byte) : (setMcsInvalid b s).endCode = s.endCode := rfl
@[simp] theorem setMcsInvalid_codeSize (b : Byte) : (setMcsInvalid b s).codeSize = s.codeSize := rfl
@[simp] theorem setMcsInvalid_dict (b : Byte) : (setMcsInvalid b s).dict = s.dict := rfl
@[simp] theorem setMcsInvalid_dictSize (b : Byte) : (setMcsInvalid b s).dictSize = s.dictSize := rfl
@[simp] theorem setMcsInvalid_prevCode (b : Byte) : (setMcsInvalid b s).prevCode = s.prevCode := rfl
@[simp] theorem setMcsInvalid_lzwState (b : Byte) : (setMcsInvalid b s).lzwState = s.lzwState := rfl
@[simp] theorem setMcsInvalid_idx (b : Byte) : (setMcsInvalid b s).idx = s.idx := rfl
@[simp] theorem setMcsInvalid_compPos (b : Byte) : (setMcsInvalid b s).compPos = s.compPos := rfl
@[simp] theorem setMcsInvalid_ct (b : Byte) : (setMcsInvalid b s).ct = s.ct := rfl
@[simp] theorem setMcsInvalid_ctSize (b : Byte) : (setMcsInvalid b s).ctSize = s.ctSize := rfl
@[simp] theorem setMcsInvalid_out (b : Byte) : (setMcsInvalid b s).out = s.out := rfl
@[simp] theorem setMcsInvalid_phase (b : Byte) : (setMcsInvalid b s).phase = s.phase := rfl
@[simp] theorem setMcsInvalid_fault (b : Byte) : (setMcsInvalid b s).fault = s.fault := rfl
@[simp] theorem setMcsInvalid_faultInfo (b : Byte) : (setMcsInvalid b s).faultInfo = b.setWidth 16 := rfl
@[simp] theorem setMcsInvalid_eoiSeen (b : Byte) : (setMcsInvalid b s).eoiSeen = s.eoiSeen := rfl
@[simp] theorem setMcsInvalid_softEnd (b : Byte) : (setMcsInvalid b s).softEnd = s.softEnd := rfl
@[simp] theorem setMcsInvalid_mcsInvalid (b : Byte) : (setMcsInvalid b s).mcsInvalid = true := rfl
@[simp] theorem setMcsInvalid_outAddr (b : Byte) : (setMcsInvalid b s).outAddr = s.outAddr := rfl
@[simp] theorem setMcsInvalid_agenda (b : Byte) : (setMcsInvalid b s).agenda = s.agenda := rfl
@[simp] theorem setMcsInvalid_rdata (b : Byte) : (setMcsInvalid b s).rdata = s.rdata := rfl
@[simp] theorem setMcsInvalid_session (b : Byte) : (setMcsInvalid b s).session = s.session := rfl

/-! `setInClosed` -/

@[simp] theorem setInClosed_inp : (setInClosed s).inp = s.inp := rfl
@[simp] theorem setInClosed_inClosed : (setInClosed s).inClosed = true := rfl
@[simp] theorem setInClosed_inPos : (setInClosed s).inPos = s.inPos := rfl
@[simp] theorem setInClosed_blkRem : (setInClosed s).blkRem = s.blkRem := rfl
@[simp] theorem setInClosed_acc : (setInClosed s).acc = s.acc := rfl
@[simp] theorem setInClosed_nbits : (setInClosed s).nbits = s.nbits := rfl
@[simp] theorem setInClosed_mcs : (setInClosed s).mcs = s.mcs := rfl
@[simp] theorem setInClosed_clearCode : (setInClosed s).clearCode = s.clearCode := rfl
@[simp] theorem setInClosed_endCode : (setInClosed s).endCode = s.endCode := rfl
@[simp] theorem setInClosed_codeSize : (setInClosed s).codeSize = s.codeSize := rfl
@[simp] theorem setInClosed_dict : (setInClosed s).dict = s.dict := rfl
@[simp] theorem setInClosed_dictSize : (setInClosed s).dictSize = s.dictSize := rfl
@[simp] theorem setInClosed_prevCode : (setInClosed s).prevCode = s.prevCode := rfl
@[simp] theorem setInClosed_lzwState : (setInClosed s).lzwState = s.lzwState := rfl
@[simp] theorem setInClosed_idx : (setInClosed s).idx = s.idx := rfl
@[simp] theorem setInClosed_compPos : (setInClosed s).compPos = s.compPos := rfl
@[simp] theorem setInClosed_ct : (setInClosed s).ct = s.ct := rfl
@[simp] theorem setInClosed_ctSize : (setInClosed s).ctSize = s.ctSize := rfl
@[simp] theorem setInClosed_out : (setInClosed s).out = s.out := rfl
@[simp] theorem setInClosed_phase : (setInClosed s).phase = s.phase := rfl
@[simp] theorem setInClosed_fault : (setInClosed s).fault = s.fault := rfl
@[simp] theorem setInClosed_faultInfo : (setInClosed s).faultInfo = s.faultInfo := rfl
@[simp] theorem setInClosed_eoiSeen : (setInClosed s).eoiSeen = s.eoiSeen := rfl
@[simp] theorem setInClosed_softEnd : (setInClosed s).softEnd = s.softEnd := rfl
@[simp] theorem setInClosed_mcsInvalid : (setInClosed s).mcsInvalid = s.mcsInvalid := rfl
@[simp] theorem setInClosed_outAddr : (setInClosed s).outAddr = s.outAddr := rfl
@[simp] theorem setInClosed_agenda : (setInClosed s).agenda = s.agenda := rfl
@[simp] theorem setInClosed_rdata : (setInClosed s).rdata = s.rdata := rfl
@[simp] theorem setInClosed_session : (setInClosed s).session = s.session := rfl

/-! `loadMcs` -/

@[simp] theorem loadMcs_inp (b : Byte) : (loadMcs b s).inp = s.inp := rfl
@[simp] theorem loadMcs_inClosed (b : Byte) : (loadMcs b s).inClosed = s.inClosed := rfl
@[simp] theorem loadMcs_inPos (b : Byte) : (loadMcs b s).inPos = s.inPos := rfl
@[simp] theorem loadMcs_blkRem (b : Byte) : (loadMcs b s).blkRem = s.blkRem := rfl
@[simp] theorem loadMcs_acc (b : Byte) : (loadMcs b s).acc = s.acc := rfl
@[simp] theorem loadMcs_nbits (b : Byte) : (loadMcs b s).nbits = s.nbits := rfl
@[simp] theorem loadMcs_mcs (b : Byte) : (loadMcs b s).mcs = b.setWidth 4 := rfl
@[simp] theorem loadMcs_clearCode (b : Byte) : (loadMcs b s).clearCode = (1 : BitVec 9) <<< b.toNat := rfl
@[simp] theorem loadMcs_endCode (b : Byte) : (loadMcs b s).endCode = ((1 : BitVec 9) <<< b.toNat) + 1 := rfl
@[simp] theorem loadMcs_codeSize (b : Byte) : (loadMcs b s).codeSize = b.setWidth 4 + 1 := rfl
@[simp] theorem loadMcs_dict (b : Byte) : (loadMcs b s).dict = rootCells ((1 : BitVec 9) <<< b.toNat).toNat := rfl
@[simp] theorem loadMcs_dictSize (b : Byte) : (loadMcs b s).dictSize = ((1 : BitVec 9) <<< b.toNat).setWidth 13 + 2 := rfl
@[simp] theorem loadMcs_prevCode (b : Byte) : (loadMcs b s).prevCode = ((1 : BitVec 9) <<< b.toNat).setWidth 12 := rfl
@[simp] theorem loadMcs_lzwState (b : Byte) : (loadMcs b s).lzwState = .awaitingFirstCode := rfl
@[simp] theorem loadMcs_idx (b : Byte) : (loadMcs b s).idx = s.idx := rfl
@[simp] theorem loadMcs_compPos (b : Byte) : (loadMcs b s).compPos = s.compPos := rfl
@[simp] theorem loadMcs_ct (b : Byte) : (loadMcs b s).ct = s.ct := rfl
@[simp] theorem loadMcs_ctSize (b : Byte) : (loadMcs b s).ctSize = s.ctSize := rfl
@[simp] theorem loadMcs_out (b : Byte) : (loadMcs b s).out = s.out := rfl
@[simp] theorem loadMcs_phase (b : Byte) : (loadMcs b s).phase = .lzw := rfl
@[simp] theorem loadMcs_fault (b : Byte) : (loadMcs b s).fault = s.fault := rfl
@[simp] theorem loadMcs_faultInfo (b : Byte) : (loadMcs b s).faultInfo = s.faultInfo := rfl
@[simp] theorem loadMcs_eoiSeen (b : Byte) : (loadMcs b s).eoiSeen = s.eoiSeen := rfl
@[simp] theorem loadMcs_softEnd (b : Byte) : (loadMcs b s).softEnd = s.softEnd := rfl
@[simp] theorem loadMcs_mcsInvalid (b : Byte) : (loadMcs b s).mcsInvalid = s.mcsInvalid := rfl
@[simp] theorem loadMcs_outAddr (b : Byte) : (loadMcs b s).outAddr = s.outAddr := rfl
@[simp] theorem loadMcs_agenda (b : Byte) : (loadMcs b s).agenda = s.agenda := rfl
@[simp] theorem loadMcs_rdata (b : Byte) : (loadMcs b s).rdata = s.rdata := rfl
@[simp] theorem loadMcs_session (b : Byte) : (loadMcs b s).session = s.session := rfl

/-! `dictAppend`: the fields it never writes -/

@[simp] theorem dictAppend_inp (p : Str) : (dictAppend p s).inp = s.inp := by unfold dictAppend; split <;> rfl
@[simp] theorem dictAppend_inClosed (p : Str) : (dictAppend p s).inClosed = s.inClosed := by unfold dictAppend; split <;> rfl
@[simp] theorem dictAppend_inPos (p : Str) : (dictAppend p s).inPos = s.inPos := by unfold dictAppend; split <;> rfl
@[simp] theorem dictAppend_blkRem (p : Str) : (dictAppend p s).blkRem = s.blkRem := by unfold dictAppend; split <;> rfl
@[simp] theorem dictAppend_acc (p : Str) : (dictAppend p s).acc = s.acc := by unfold dictAppend; split <;> rfl
@[simp] theorem dictAppend_nbits (p : Str) : (dictAppend p s).nbits = s.nbits := by unfold dictAppend; split <;> rfl
@[simp] theorem dictAppend_mcs (p : Str) : (dictAppend p s).mcs = s.mcs := by unfold dictAppend; split <;> rfl
@[simp] theorem dictAppend_clearCode (p : Str) : (dictAppend p s).clearCode = s.clearCode := by unfold dictAppend; split <;> rfl
@[simp] theorem dictAppend_endCode (p : Str) : (dictAppend p s).endCode = s.endCode := by unfold dictAppend; split <;> rfl
@[simp] theorem dictAppend_codeSize (p : Str) : (dictAppend p s).codeSize = s.codeSize := by unfold dictAppend; split <;> rfl
@[simp] theorem dictAppend_prevCode (p : Str) : (dictAppend p s).prevCode = s.prevCode := by unfold dictAppend; split <;> rfl
@[simp] theorem dictAppend_lzwState (p : Str) : (dictAppend p s).lzwState = s.lzwState := by unfold dictAppend; split <;> rfl
@[simp] theorem dictAppend_idx (p : Str) : (dictAppend p s).idx = s.idx := by unfold dictAppend; split <;> rfl
@[simp] theorem dictAppend_compPos (p : Str) : (dictAppend p s).compPos = s.compPos := by unfold dictAppend; split <;> rfl
@[simp] theorem dictAppend_ct (p : Str) : (dictAppend p s).ct = s.ct := by unfold dictAppend; split <;> rfl
@[simp] theorem dictAppend_ctSize (p : Str) : (dictAppend p s).ctSize = s.ctSize := by unfold dictAppend; split <;> rfl
@[simp] theorem dictAppend_out (p : Str) : (dictAppend p s).out = s.out := by unfold dictAppend; split <;> rfl
@[simp] theorem dictAppend_phase (p : Str) : (dictAppend p s).phase = s.phase := by unfold dictAppend; split <;> rfl
@[simp] theorem dictAppend_fault (p : Str) : (dictAppend p s).fault = s.fault := by unfold dictAppend; split <;> rfl
@[simp] theorem dictAppend_faultInfo (p : Str) : (dictAppend p s).faultInfo = s.faultInfo := by unfold dictAppend; split <;> rfl
@[simp] theorem dictAppend_eoiSeen (p : Str) : (dictAppend p s).eoiSeen = s.eoiSeen := by unfold dictAppend; split <;> rfl
@[simp] theorem dictAppend_softEnd (p : Str) : (dictAppend p s).softEnd = s.softEnd := by unfold dictAppend; split <;> rfl
@[simp] theorem dictAppend_mcsInvalid (p : Str) : (dictAppend p s).mcsInvalid = s.mcsInvalid := by unfold dictAppend; split <;> rfl
@[simp] theorem dictAppend_outAddr (p : Str) : (dictAppend p s).outAddr = s.outAddr := by unfold dictAppend; split <;> rfl
@[simp] theorem dictAppend_agenda (p : Str) : (dictAppend p s).agenda = s.agenda := by unfold dictAppend; split <;> rfl
@[simp] theorem dictAppend_rdata (p : Str) : (dictAppend p s).rdata = s.rdata := by unfold dictAppend; split <;> rfl
@[simp] theorem dictAppend_session (p : Str) : (dictAppend p s).session = s.session := by unfold dictAppend; split <;> rfl

/-! `widthCheck`: the fields it never writes -/

@[simp] theorem widthCheck_inp : (widthCheck s).inp = s.inp := by unfold widthCheck; split <;> rfl
@[simp] theorem widthCheck_inClosed : (widthCheck s).inClosed = s.inClosed := by unfold widthCheck; split <;> rfl
@[simp] theorem widthCheck_inPos : (widthCheck s).inPos = s.inPos := by unfold widthCheck; split <;> rfl
@[simp] theorem widthCheck_blkRem : (widthCheck s).blkRem = s.blkRem := by unfold widthCheck; split <;> rfl
@[simp] theorem widthCheck_acc : (widthCheck s).acc = s.acc := by unfold widthCheck; split <;> rfl
@[simp] theorem widthCheck_nbits : (widthCheck s).nbits = s.nbits := by unfold widthCheck; split <;> rfl
@[simp] theorem widthCheck_mcs : (widthCheck s).mcs = s.mcs := by unfold widthCheck; split <;> rfl
@[simp] theorem widthCheck_clearCode : (widthCheck s).clearCode = s.clearCode := by unfold widthCheck; split <;> rfl
@[simp] theorem widthCheck_endCode : (widthCheck s).endCode = s.endCode := by unfold widthCheck; split <;> rfl
@[simp] theorem widthCheck_dict : (widthCheck s).dict = s.dict := by unfold widthCheck; split <;> rfl
@[simp] theorem widthCheck_dictSize : (widthCheck s).dictSize = s.dictSize := by unfold widthCheck; split <;> rfl
@[simp] theorem widthCheck_prevCode : (widthCheck s).prevCode = s.prevCode := by unfold widthCheck; split <;> rfl
@[simp] theorem widthCheck_lzwState : (widthCheck s).lzwState = s.lzwState := by unfold widthCheck; split <;> rfl
@[simp] theorem widthCheck_idx : (widthCheck s).idx = s.idx := by unfold widthCheck; split <;> rfl
@[simp] theorem widthCheck_compPos : (widthCheck s).compPos = s.compPos := by unfold widthCheck; split <;> rfl
@[simp] theorem widthCheck_ct : (widthCheck s).ct = s.ct := by unfold widthCheck; split <;> rfl
@[simp] theorem widthCheck_ctSize : (widthCheck s).ctSize = s.ctSize := by unfold widthCheck; split <;> rfl
@[simp] theorem widthCheck_out : (widthCheck s).out = s.out := by unfold widthCheck; split <;> rfl
@[simp] theorem widthCheck_phase : (widthCheck s).phase = s.phase := by unfold widthCheck; split <;> rfl
@[simp] theorem widthCheck_fault : (widthCheck s).fault = s.fault := by unfold widthCheck; split <;> rfl
@[simp] theorem widthCheck_faultInfo : (widthCheck s).faultInfo = s.faultInfo := by unfold widthCheck; split <;> rfl
@[simp] theorem widthCheck_eoiSeen : (widthCheck s).eoiSeen = s.eoiSeen := by unfold widthCheck; split <;> rfl
@[simp] theorem widthCheck_softEnd : (widthCheck s).softEnd = s.softEnd := by unfold widthCheck; split <;> rfl
@[simp] theorem widthCheck_mcsInvalid : (widthCheck s).mcsInvalid = s.mcsInvalid := by unfold widthCheck; split <;> rfl
@[simp] theorem widthCheck_outAddr : (widthCheck s).outAddr = s.outAddr := by unfold widthCheck; split <;> rfl
@[simp] theorem widthCheck_agenda : (widthCheck s).agenda = s.agenda := by unfold widthCheck; split <;> rfl
@[simp] theorem widthCheck_rdata : (widthCheck s).rdata = s.rdata := by unfold widthCheck; split <;> rfl
@[simp] theorem widthCheck_session : (widthCheck s).session = s.session := by unfold widthCheck; split <;> rfl

/-! `startSession`: the fields it never writes -/

@[simp] theorem startSession_inp : (startSession s).inp = s.inp := by unfold startSession; split <;> rfl
@[simp] theorem startSession_inClosed : (startSession s).inClosed = s.inClosed := by unfold startSession; split <;> rfl
@[simp] theorem startSession_inPos : (startSession s).inPos = s.inPos := by unfold startSession; split <;> rfl
@[simp] theorem startSession_blkRem : (startSession s).blkRem = s.blkRem := by unfold startSession; split <;> rfl
@[simp] theorem startSession_acc : (startSession s).acc = s.acc := by unfold startSession; split <;> rfl
@[simp] theorem startSession_nbits : (startSession s).nbits = s.nbits := by unfold startSession; split <;> rfl
@[simp] theorem startSession_mcs : (startSession s).mcs = s.mcs := by unfold startSession; split <;> rfl
@[simp] theorem startSession_clearCode : (startSession s).clearCode = s.clearCode := by unfold startSession; split <;> rfl
@[simp] theorem startSession_endCode : (startSession s).endCode = s.endCode := by unfold startSession; split <;> rfl
@[simp] theorem startSession_codeSize : (startSession s).codeSize = s.codeSize := by unfold startSession; split <;> rfl
@[simp] theorem startSession_dict : (startSession s).dict = s.dict := by unfold startSession; split <;> rfl
@[simp] theorem startSession_dictSize : (startSession s).dictSize = s.dictSize := by unfold startSession; split <;> rfl
@[simp] theorem startSession_prevCode : (startSession s).prevCode = s.prevCode := by unfold startSession; split <;> rfl
@[simp] theorem startSession_lzwState : (startSession s).lzwState = s.lzwState := by unfold startSession; split <;> rfl
@[simp] theorem startSession_idx : (startSession s).idx = s.idx := by unfold startSession; split <;> rfl
@[simp] theorem startSession_compPos : (startSession s).compPos = s.compPos := by unfold startSession; split <;> rfl
@[simp] theorem startSession_ct : (startSession s).ct = s.ct := by unfold startSession; split <;> rfl
@[simp] theorem startSession_ctSize : (startSession s).ctSize = s.ctSize := by unfold startSession; split <;> rfl
@[simp] theorem startSession_out : (startSession s).out = s.out := by unfold startSession; split <;> rfl
@[simp] theorem startSession_fault : (startSession s).fault = s.fault := by unfold startSession; split <;> rfl
@[simp] theorem startSession_faultInfo : (startSession s).faultInfo = s.faultInfo := by unfold startSession; split <;> rfl
@[simp] theorem startSession_eoiSeen : (startSession s).eoiSeen = s.eoiSeen := by unfold startSession; split <;> rfl
@[simp] theorem startSession_softEnd : (startSession s).softEnd = s.softEnd := by unfold startSession; split <;> rfl
@[simp] theorem startSession_mcsInvalid : (startSession s).mcsInvalid = s.mcsInvalid := by unfold startSession; split <;> rfl
@[simp] theorem startSession_outAddr : (startSession s).outAddr = s.outAddr := by unfold startSession; split <;> rfl
@[simp] theorem startSession_agenda : (startSession s).agenda = s.agenda := by unfold startSession; split <;> rfl
@[simp] theorem startSession_rdata : (startSession s).rdata = s.rdata := by unfold startSession; split <;> rfl
@[simp] theorem startSession_session : (startSession s).session = s.session := by unfold startSession; split <;> rfl

/-! `endDataCode`: the fields it never writes, and the two it always does -/

@[simp] theorem endDataCode_inp (c : Code) : (endDataCode c s).inp = s.inp := by simp [endDataCode]
@[simp] theorem endDataCode_inClosed (c : Code) : (endDataCode c s).inClosed = s.inClosed := by simp [endDataCode]
@[simp] theorem endDataCode_inPos (c : Code) : (endDataCode c s).inPos = s.inPos := by simp [endDataCode]
@[simp] theorem endDataCode_blkRem (c : Code) : (endDataCode c s).blkRem = s.blkRem := by simp [endDataCode]
@[simp] theorem endDataCode_acc (c : Code) : (endDataCode c s).acc = s.acc := by simp [endDataCode]
@[simp] theorem endDataCode_nbits (c : Code) : (endDataCode c s).nbits = s.nbits := by simp [endDataCode]
@[simp] theorem endDataCode_mcs (c : Code) : (endDataCode c s).mcs = s.mcs := by simp [endDataCode]
@[simp] theorem endDataCode_clearCode (c : Code) : (endDataCode c s).clearCode = s.clearCode := by simp [endDataCode]
@[simp] theorem endDataCode_endCode (c : Code) : (endDataCode c s).endCode = s.endCode := by simp [endDataCode]
@[simp] theorem endDataCode_dict (c : Code) : (endDataCode c s).dict = s.dict := by simp [endDataCode]
@[simp] theorem endDataCode_dictSize (c : Code) : (endDataCode c s).dictSize = s.dictSize := by simp [endDataCode]
@[simp] theorem endDataCode_prevCode (c : Code) : (endDataCode c s).prevCode = c := by simp [endDataCode]
@[simp] theorem endDataCode_lzwState (c : Code) : (endDataCode c s).lzwState = .decoding := by simp [endDataCode]
@[simp] theorem endDataCode_idx (c : Code) : (endDataCode c s).idx = s.idx := by simp [endDataCode]
@[simp] theorem endDataCode_compPos (c : Code) : (endDataCode c s).compPos = s.compPos := by simp [endDataCode]
@[simp] theorem endDataCode_ct (c : Code) : (endDataCode c s).ct = s.ct := by simp [endDataCode]
@[simp] theorem endDataCode_ctSize (c : Code) : (endDataCode c s).ctSize = s.ctSize := by simp [endDataCode]
@[simp] theorem endDataCode_out (c : Code) : (endDataCode c s).out = s.out := by simp [endDataCode]
@[simp] theorem endDataCode_phase (c : Code) : (endDataCode c s).phase = s.phase := by simp [endDataCode]
@[simp] theorem endDataCode_fault (c : Code) : (endDataCode c s).fault = s.fault := by simp [endDataCode]
@[simp] theorem endDataCode_faultInfo (c : Code) : (endDataCode c s).faultInfo = s.faultInfo := by simp [endDataCode]
@[simp] theorem endDataCode_eoiSeen (c : Code) : (endDataCode c s).eoiSeen = s.eoiSeen := by simp [endDataCode]
@[simp] theorem endDataCode_softEnd (c : Code) : (endDataCode c s).softEnd = s.softEnd := by simp [endDataCode]
@[simp] theorem endDataCode_mcsInvalid (c : Code) : (endDataCode c s).mcsInvalid = s.mcsInvalid := by simp [endDataCode]
@[simp] theorem endDataCode_outAddr (c : Code) : (endDataCode c s).outAddr = s.outAddr := by simp [endDataCode]
@[simp] theorem endDataCode_agenda (c : Code) : (endDataCode c s).agenda = s.agenda := by simp [endDataCode]
@[simp] theorem endDataCode_rdata (c : Code) : (endDataCode c s).rdata = s.rdata := by simp [endDataCode]
@[simp] theorem endDataCode_session (c : Code) : (endDataCode c s).session = s.session := by simp [endDataCode]

/-! `resetBlock`: every item of the block at its reset value -/

@[simp] theorem resetBlock_inp : (resetBlock s).inp = State.reset.inp := rfl
@[simp] theorem resetBlock_inClosed : (resetBlock s).inClosed = State.reset.inClosed := rfl
@[simp] theorem resetBlock_inPos : (resetBlock s).inPos = State.reset.inPos := rfl
@[simp] theorem resetBlock_blkRem : (resetBlock s).blkRem = State.reset.blkRem := rfl
@[simp] theorem resetBlock_acc : (resetBlock s).acc = State.reset.acc := rfl
@[simp] theorem resetBlock_nbits : (resetBlock s).nbits = State.reset.nbits := rfl
@[simp] theorem resetBlock_mcs : (resetBlock s).mcs = State.reset.mcs := rfl
@[simp] theorem resetBlock_clearCode : (resetBlock s).clearCode = State.reset.clearCode := rfl
@[simp] theorem resetBlock_endCode : (resetBlock s).endCode = State.reset.endCode := rfl
@[simp] theorem resetBlock_codeSize : (resetBlock s).codeSize = State.reset.codeSize := rfl
@[simp] theorem resetBlock_dict : (resetBlock s).dict = State.reset.dict := rfl
@[simp] theorem resetBlock_dictSize : (resetBlock s).dictSize = State.reset.dictSize := rfl
@[simp] theorem resetBlock_prevCode : (resetBlock s).prevCode = State.reset.prevCode := rfl
@[simp] theorem resetBlock_lzwState : (resetBlock s).lzwState = State.reset.lzwState := rfl
@[simp] theorem resetBlock_idx : (resetBlock s).idx = State.reset.idx := rfl
@[simp] theorem resetBlock_compPos : (resetBlock s).compPos = State.reset.compPos := rfl
@[simp] theorem resetBlock_ct : (resetBlock s).ct = State.reset.ct := rfl
@[simp] theorem resetBlock_ctSize : (resetBlock s).ctSize = State.reset.ctSize := rfl
@[simp] theorem resetBlock_out : (resetBlock s).out = State.reset.out := rfl
@[simp] theorem resetBlock_phase : (resetBlock s).phase = State.reset.phase := rfl
@[simp] theorem resetBlock_fault : (resetBlock s).fault = State.reset.fault := rfl
@[simp] theorem resetBlock_faultInfo : (resetBlock s).faultInfo = State.reset.faultInfo := rfl
@[simp] theorem resetBlock_eoiSeen : (resetBlock s).eoiSeen = State.reset.eoiSeen := rfl
@[simp] theorem resetBlock_softEnd : (resetBlock s).softEnd = State.reset.softEnd := rfl
@[simp] theorem resetBlock_mcsInvalid : (resetBlock s).mcsInvalid = State.reset.mcsInvalid := rfl
@[simp] theorem resetBlock_outAddr : (resetBlock s).outAddr = State.reset.outAddr := rfl
@[simp] theorem resetBlock_agenda : (resetBlock s).agenda = s.agenda := rfl
@[simp] theorem resetBlock_rdata : (resetBlock s).rdata = s.rdata := rfl
@[simp] theorem resetBlock_session : (resetBlock s).session = s.session + 1 := rfl

end Sys2Proof.Machine
end

