-- ==== Sys2Proof/Laws/Ops.lean ====
section
/-! SUPPORT. One lemma for each shared operation that says everything it can do; later proofs cite these and do not unfold. -/

namespace Sys2Proof.Machine

/-! ## The input channel -/

theorem inByte_byte {s t : State} {b : Byte} :
    inByte s = .byte b t ↔ s.inp[s.inPos]? = some b ∧ t = advance s := by
  unfold inByte
  split
  · next x h => simp [h, eq_comm]
  · next h => split <;> simp [h]

theorem inByte_eos {s : State} : inByte s = .eos ↔ s.inp[s.inPos]? = none ∧ s.inClosed = true := by
  unfold inByte
  split
  · next x h => simp [h]
  · next h => split <;> simp_all

theorem inByte_hold {s : State} : inByte s = .hold ↔ s.inp[s.inPos]? = none ∧ s.inClosed = false := by
  unfold inByte
  split
  · next x h => simp [h]
  · next h => split <;> simp_all

/-! ## The dictionary -/

theorem isDataEntry_iff {s : State} {c : Code} :
    isDataEntry s c = true ↔
      c.toNat < s.dictSize.toNat ∧ c.toNat ≠ s.clearCode.toNat ∧ c.toNat ≠ s.endCode.toNat := by
  simp [isDataEntry]

theorem hasPred_iff {s : State} : hasPred s = true ↔ s.prevCode.toNat ≠ s.clearCode.toNat := by
  simp [hasPred]

theorem dictRead_some {s : State} {c : Code} {p : Str} :
    dictRead s c = some p ↔ isDataEntry s c = true ∧ Memory.read s.dict c.toNat = some p := by
  unfold dictRead
  split <;> simp_all

/-- `DictAppend`: one cell and the size, or nothing at all when the dictionary is full. -/
theorem dictAppend_cases (p : Str) (s : State) :
    (s.dictSize.toNat < 4096 ∧ dictAppend p s =
      { s with dict := Memory.write s.dict s.dictSize.toNat p, dictSize := s.dictSize + 1 }) ∨
    (4096 ≤ s.dictSize.toNat ∧ dictAppend p s = s) := by
  unfold dictAppend Config.maxDict
  split
  · next h => exact .inl ⟨h, rfl⟩
  · next h => exact .inr ⟨Nat.le_of_not_lt h, rfl⟩

/-- `WidthCheck`: one bit wider exactly when the table fills the width and the width is below 12. -/
theorem widthCheck_cases (s : State) :
    ((s.dictSize.toNat = 2 ^ s.codeSize.toNat ∧ s.codeSize.toNat < 12) ∧
      widthCheck s = { s with codeSize := s.codeSize + 1 }) ∨
    (¬ (s.dictSize.toNat = 2 ^ s.codeSize.toNat ∧ s.codeSize.toNat < 12) ∧ widthCheck s = s) := by
  unfold widthCheck Config.maxCodeSize
  split
  · next h => exact .inl ⟨h, rfl⟩
  · next h => exact .inr ⟨h, rfl⟩

/-- An existing entry: everything `existingCode` can do when it answers a next state. -/
theorem existingCode_next {c : Code} {s t : State} :
    existingCode c s = .next t ↔ ∃ p, dictRead s c = some p ∧
      ((hasPred s = false ∧ t = endDataCode c (emit p s)) ∨
       (hasPred s = true ∧ ∃ q, dictRead s s.prevCode = some q ∧
          t = endDataCode c (dictAppend (q.snoc p.first) (emit p s)))) := by
  unfold existingCode
  cases hc : dictRead s c with
  | none => simp
  | some p =>
    cases hp : hasPred s
    · simp [eq_comm]
    · cases hq : dictRead s s.prevCode <;> simp [eq_comm]

theorem existingCode_not_fault (c : Code) (s : State) (r : Fault) : existingCode c s ≠ .fault r := by
  unfold existingCode
  split
  · simp
  · split
    · split <;> simp
    · simp

/-- The next index to be assigned: everything `nextIndexCode` can do when it answers a next state. -/
theorem nextIndexCode_next {c : Code} {s t : State} :
    nextIndexCode c s = .next t ↔ ∃ q, dictRead s s.prevCode = some q ∧
      t = endDataCode c (dictAppend (q.snoc q.first) (emit (q.snoc q.first) s)) := by
  unfold nextIndexCode
  cases hq : dictRead s s.prevCode <;> simp [eq_comm]

theorem nextIndexCode_not_fault (c : Code) (s : State) (r : Fault) : nextIndexCode c s ≠ .fault r := by
  unfold nextIndexCode
  split <;> simp

/-! ## The header step's registers -/

theorem loadMcs_numbers {b : Byte} (h : 2 ≤ b.toNat ∧ b.toNat ≤ 8) (s : State) :
    (loadMcs b s).mcs.toNat = b.toNat ∧ (loadMcs b s).clearCode.toNat = 2 ^ b.toNat ∧
    (loadMcs b s).endCode.toNat = 2 ^ b.toNat + 1 ∧ (loadMcs b s).codeSize.toNat = b.toNat + 1 ∧
    (loadMcs b s).dictSize.toNat = 2 ^ b.toNat + 2 ∧ (loadMcs b s).prevCode.toNat = 2 ^ b.toNat := by
  have e : b = 2 ∨ b = 3 ∨ b = 4 ∨ b = 5 ∨ b = 6 ∨ b = 7 ∨ b = 8 := by bv_omega
  rcases e with rfl | rfl | rfl | rfl | rfl | rfl | rfl <;> simp

/-! ## The canonical form of the memories: every operation keeps it -/

theorem reset_memories_wf : Memory.wf State.reset.dict ∧ Memory.wf State.reset.ct := by
  simp [State.reset]

theorem dictReset_dict_wf (s : State) : Memory.wf (dictReset s).dict := rootCells_wf _

theorem loadMcs_dict_wf (b : Byte) (s : State) : Memory.wf (loadMcs b s).dict := rootCells_wf _

theorem dictAppend_dict_wf {s : State} (p : Str) (h : Memory.wf s.dict) : Memory.wf (dictAppend p s).dict := by
  rcases dictAppend_cases p s with ⟨-, e⟩ | ⟨-, e⟩
  · rw [e]; exact Memory.write_wf _ _ h
  · rwa [e]

theorem resetBlock_memories_wf (s : State) : Memory.wf (resetBlock s).dict ∧ Memory.wf (resetBlock s).ct :=
  reset_memories_wf

end Sys2Proof.Machine
end

