-- ==== Sys2Proof/Laws/Engine.lean ====
section
/-! SUPPORT. What the fetch, the engine's step, a host access and the machine's step can do: one lemma each. -/

namespace Sys2Proof.Machine

theorem fetchByte_instr {f : Byte → Instr} {s t : State} {i : Instr} :
    fetchByte f s = .instr i t ↔
      ∃ b, s.inp[s.inPos]? = some b ∧ i = f b ∧ t = advance s := by
  unfold fetchByte
  cases h : inByte s with
  | byte b u =>
    obtain ⟨hb, hu⟩ := inByte_byte.1 h
    simp [hb, hu, eq_comm]
  | eos => simp [(inByte_eos.1 h).1]
  | hold => simp [(inByte_hold.1 h).1]

theorem fetchByte_eos {f : Byte → Instr} {s : State} :
    fetchByte f s = .eos ↔ s.inp[s.inPos]? = none ∧ s.inClosed = true := by
  unfold fetchByte
  rw [← inByte_eos]
  cases inByte s <;> simp

theorem fetchByte_hold {f : Byte → Instr} {s : State} :
    fetchByte f s = .hold ↔ s.inp[s.inPos]? = none ∧ s.inClosed = false := by
  unfold fetchByte
  rw [← inByte_hold]
  cases inByte s <;> simp

/-- Everything the fetch can deliver: a header byte, a code, a framing byte, an index, or the finishing step. -/
theorem fetch_instr {s t : State} {i : Instr} (h : fetch s = .instr i t) :
    (s.phase = .header ∧ ∃ b, s.inp[s.inPos]? = some b ∧ i = decodeMcs b ∧ t = advance s) ∨
    (s.phase = .lzw ∧ s.codeSize.toNat ≤ s.nbits.toNat ∧ i = decodeCode (codeRegs s) (bufferedCode s) ∧
      t = dropCode s) ∨
    (s.phase = .lzw ∧ s.nbits.toNat < s.codeSize.toNat ∧
      ∃ b, s.inp[s.inPos]? = some b ∧ i = framingFormat s b ∧ t = advance s) ∨
    (s.phase = .composite ∧ ∃ k, s.idx[s.compPos]? = some k ∧ i = .lookup k ∧ t = s) ∨
    (s.phase = .composite ∧ s.compPos = s.idx.length ∧ i = .finish ∧ t = s) := by
  unfold fetch at h
  cases hp : s.phase <;> simp only [hp] at h
  · exact absurd h (by simp)
  · obtain ⟨b, hb⟩ := fetchByte_instr.1 h
    exact .inl ⟨rfl, b, hb⟩
  · split at h
    · next hw => simp only [Fetched.instr.injEq] at h; exact .inr (.inl ⟨rfl, hw, h.1.symm, h.2.symm⟩)
    · next hw =>
      obtain ⟨b, hb⟩ := fetchByte_instr.1 h
      exact .inr (.inr (.inl ⟨rfl, Nat.lt_of_not_le hw, b, hb⟩))
  · split at h
    · next k hk =>
      simp only [Fetched.instr.injEq] at h
      exact .inr (.inr (.inr (.inl ⟨rfl, k, hk, h.1.symm, h.2.symm⟩)))
    · split at h
      · next hl =>
        simp only [Fetched.instr.injEq] at h
        exact .inr (.inr (.inr (.inr ⟨rfl, hl, h.1.symm, h.2.symm⟩)))
      · exact absurd h (by simp)
  · exact absurd h (by simp)
  · exact absurd h (by simp)

/-- The input has ended where a byte is needed: only the header step and the code loop can meet that. -/
theorem fetch_eos {s : State} (h : fetch s = .eos) :
    (s.phase = .header ∨ (s.phase = .lzw ∧ s.nbits.toNat < s.codeSize.toNat)) ∧
      s.inp[s.inPos]? = none ∧ s.inClosed = true := by
  unfold fetch at h
  cases hp : s.phase <;> simp only [hp] at h
  · exact absurd h (by simp)
  · exact ⟨.inl rfl, fetchByte_eos.1 h⟩
  · split at h
    · exact absurd h (by simp)
    · next hw => exact ⟨.inr ⟨rfl, Nat.lt_of_not_le hw⟩, fetchByte_eos.1 h⟩
  · split at h
    · exact absurd h (by simp)
    · split at h <;> exact absurd h (by simp)
  · exact absurd h (by simp)
  · exact absurd h (by simp)

/-- One element of the engine's step that answers a next state. -/
theorem engineElements_next {n : Nat} {s u : State} (h : engineElements (n + 1) s = some (.next u)) :
    (fetch s = .eos ∧ u = raise .unexpectedEndOfStream 0 s) ∨
    ∃ i t v, fetch s = .instr i t ∧ exec i t = .next v ∧
      ((continuesStep i = true ∧ engineElements n v = some (.next u)) ∨ (continuesStep i = false ∧ u = v)) := by
  unfold engineElements at h
  cases hf : fetch s with
  | hold => simp [hf] at h
  | eos => simp only [hf] at h; simp only [Option.some.injEq, Host.Outcome.next.injEq] at h; exact .inl ⟨rfl, h.symm⟩
  | instr i t =>
    simp only [hf] at h
    cases he : exec i t with
    | next v =>
      simp only [he] at h
      refine .inr ⟨i, t, v, rfl, he, ?_⟩
      split at h
      · next hc => exact .inl ⟨hc, h⟩
      · next hc =>
        simp only [Option.some.injEq, Host.Outcome.next.injEq] at h
        exact .inr ⟨by simpa using hc, h.symm⟩
    | fault r => simp [he] at h
    | refused r => simp [he] at h

theorem engineTurn_next {s t : State} :
    engineTurn s = .next t ↔ engineStep s = some (.next t) ∨ (engineStep s = none ∧ t = s) := by
  unfold engineTurn
  cases engineStep s with
  | none => simp [eq_comm]
  | some o => simp

theorem hostWrite_next {reg : Nat} {v : Word} {s t : State} :
    hostWrite reg v s = .next t ↔
      (∃ i, decodeWrite reg v = .instr i ∧ exec i s = .next t) ∨ (∃ w, decodeWrite reg v = .rejected w ∧ t = s) := by
  unfold hostWrite
  cases decodeWrite reg v <;> simp [eq_comm]

theorem hostRead_next {reg : Nat} {s t : State} :
    hostRead reg s = .next t ↔
      (∃ i, decodeRead reg = .instr i ∧ exec i s = .next t) ∨
      (∃ w, decodeRead reg = .rejected w ∧ t = returnWord 0 s) := by
  unfold hostRead
  cases decodeRead reg <;> simp [eq_comm]

/-- Every step that answers a next state: the engine's turn, a host write, or a host read. -/
theorem step_next {s t : State} (h : step s = .next t) :
    (∃ u, EngineDue s u ∧ engineTurn u = .next t) ∨
    (∃ reg v r, s.agenda = .write reg v :: r ∧ hostWrite reg v { s with agenda := r } = .next t) ∨
    (∃ reg r, s.agenda = .read reg :: r ∧ hostRead reg { s with agenda := r } = .next t) := by
  unfold step takeTurn at h
  split at h
  · next ha => exact .inl ⟨s, .inl ⟨ha, rfl⟩, h⟩
  · next r ha => exact .inl ⟨_, .inr ⟨r, ha, rfl⟩, h⟩
  · next reg v r ha => exact .inr (.inl ⟨reg, v, r, ha, h⟩)
  · next reg r ha => exact .inr (.inr ⟨reg, r, ha, h⟩)

/-- When the engine's turn is due the step is that turn. -/
theorem step_engine {s u : State} (h : EngineDue s u) : step s = engineTurn u := by
  unfold step takeTurn
  rcases h with ⟨ha, rfl⟩ | ⟨r, ha, rfl⟩ <;> simp [ha]

end Sys2Proof.Machine
end

