-- ==== Sys2Proof/Laws/Effects.lean ====
section
/-! SUPPORT. What each element of an engine step and each host access leaves of the state: the inversion lemmas from which the
whole-machine claims follow, and the induction over the elements of a step. -/

namespace Sys2Proof.Machine

/-! ## Frames of the shared operations -/

theorem widthCheck_frame (s : State) : widthCheck s = { s with codeSize := (widthCheck s).codeSize } := by
  rcases widthCheck_cases s with ⟨-, e⟩ | ⟨-, e⟩ <;> rw [e]

theorem dictAppend_frame (p : Str) (s : State) :
    dictAppend p s = { s with dict := (dictAppend p s).dict, dictSize := (dictAppend p s).dictSize } := by
  rcases dictAppend_cases p s with ⟨-, e⟩ | ⟨-, e⟩ <;> rw [e]

theorem endDataCode_frame (c : Code) (s : State) :
    endDataCode c s =
      { s with prevCode := c, lzwState := .decoding, codeSize := (endDataCode c s).codeSize } := by
  unfold endDataCode
  rw [widthCheck_frame]

/-- An existing code changes `IDX`, the dictionary, `PREV_CODE`, `LZW_STATE` and `CODE_SIZE` at most. -/
theorem existingCode_frame {c : Code} {s t : State} (h : existingCode c s = .next t) :
    t = { s with
          idx := t.idx, dict := t.dict, dictSize := t.dictSize, prevCode := t.prevCode, lzwState := .decoding,
          codeSize := t.codeSize } := by
  obtain ⟨p, -, ⟨-, rfl⟩ | ⟨-, q, -, rfl⟩⟩ := existingCode_next.1 h
  · rw [endDataCode_frame]; rfl
  · rw [endDataCode_frame, dictAppend_frame]; rfl

/-- So does the next index to be assigned. -/
theorem nextIndexCode_frame {c : Code} {s t : State} (h : nextIndexCode c s = .next t) :
    t = { s with
          idx := t.idx, dict := t.dict, dictSize := t.dictSize, prevCode := t.prevCode, lzwState := .decoding,
          codeSize := t.codeSize } := by
  obtain ⟨q, -, rfl⟩ := nextIndexCode_next.1 h
  rw [endDataCode_frame, dictAppend_frame]; rfl

/-! ## The elements of a step -/

theorem continuesStep_decodeMcs (b : Byte) : continuesStep (decodeMcs b) = false := by
  unfold decodeMcs
  split <;> rfl

theorem continuesStep_decodeCode (r : CodeRegs) (c : Code) : continuesStep (decodeCode r c) = false := by
  unfold decodeCode
  repeat' split
  all_goals rfl

theorem framingFormat_cases (s : State) (b : Byte) :
    (framingFormat s b = .term ∧ s.blkRem = 0 ∧ b = 0) ∨ (framingFormat s b = .blklen b ∧ s.blkRem = 0 ∧ b ≠ 0) ∨
    (framingFormat s b = .data b ∧ s.blkRem ≠ 0) := by
  unfold framingFormat
  split
  · next h =>
    unfold decodeLen
    split
    · next hb => exact .inl ⟨rfl, h, hb⟩
    · next hb => exact .inr (.inl ⟨rfl, h, hb⟩)
  · next h => exact .inr (.inr ⟨rfl, h⟩)

/-- What a code leaves, `r` being the registers it is compared with: `CLEAR`, `END`, an illegal code, or a data code. -/
theorem exec_decodeCode_effect {r : CodeRegs} {c : Code} {s t : State} (h : exec (decodeCode r c) s = .next t) :
    t = { s with
          dict := (dictReset s).dict, dictSize := (dictReset s).dictSize, codeSize := t.codeSize,
          prevCode := s.clearCode.setWidth 12, lzwState := .cleared } ∨
    t = endCodeLoop (setEoiSeen s) ∨ t = raise .invalidCode (c.setWidth 16) s ∨
    t = { s with
          idx := t.idx, dict := t.dict, dictSize := t.dictSize, prevCode := t.prevCode, lzwState := .decoding,
          codeSize := t.codeSize } := by
  unfold decodeCode at h
  split at h
  · simp only [exec, execClear, Host.Outcome.next.injEq] at h
    refine .inl ?_
    rw [← h, widthCheck_frame]; rfl
  split at h
  · simp only [exec, execEndOfInfo, Host.Outcome.next.injEq] at h
    exact .inr (.inl h.symm)
  split at h
  · exact .inr (.inr (.inr (existingCode_frame h)))
  split at h
  · exact .inr (.inr (.inr (existingCode_frame h)))
  split at h
  · split at h
    · exact .inr (.inr (.inr (nextIndexCode_frame h)))
    · simp only [exec, execNopred, Host.Outcome.next.injEq] at h
      exact .inr (.inr (.inl h.symm))
  · simp only [exec, execBeyond, Host.Outcome.next.injEq] at h
    exact .inr (.inr (.inl h.symm))

/-- What a pixel step leaves. -/
theorem execLookup_effect {k : Byte} {s t : State} (h : execLookup k s = .next t) :
    (s.ctSize.toNat ≤ k.toNat ∧ t = raise .colorIndexOutOfRange (k.setWidth 16) s) ∨
    (k.toNat < s.ctSize.toNat ∧ t = { s with out := s.out ++ pixelBytes (ctColour s k), compPos := s.compPos + 1 }) := by
  unfold execLookup at h
  split at h
  · next hk =>
    simp only [Host.Outcome.next.injEq] at h
    exact .inl ⟨hk, h.symm⟩
  · next hk =>
    simp only [Host.Outcome.next.injEq] at h
    exact .inr ⟨Nat.lt_of_not_le hk, h.symm⟩

/-- No meaning ends in the model's fault. -/
theorem exec_not_fault (i : Instr) (s : State) (r : Fault) : exec i s ≠ .fault r := by
  cases i with
  | entry c => exact existingCode_not_fault c s r
  | root c => exact existingCode_not_fault c s r
  | kwkwk c => exact nextIndexCode_not_fault c s r
  | lookup k => simp only [exec, execLookup]; split <;> simp
  | ctsize v => simp only [exec, execCtsize]; split <;> simp
  | ctwr k x g b => simp only [exec, execCtwr]; split <;> simp
  | push b => simp only [exec, execPush]; split <;> simp
  | _ => exact fun h => by cases h

/-- A step of one element is that element's meaning. -/
theorem engineTurn_single {s t : State} {i : Instr} (hf : fetch s = .instr i t) (hc : continuesStep i = false) :
    engineTurn s = exec i t := by
  unfold engineTurn engineStep maxElements engineElements
  simp only [hf, hc]
  cases exec i t <;> simp

/-- Induction over the elements of a step: a transitive relation that each element keeps, the end of the input among them, holds
between the ends of the step. -/
theorem engineElements_induction {R : State → State → Prop} (htrans : ∀ a b c, R a b → R b c → R a c)
    (heos : ∀ s, fetch s = .eos → R s (raise .unexpectedEndOfStream 0 s))
    (helem : ∀ s i t v, fetch s = .instr i t → exec i t = .next v → R s v) :
    ∀ n s u, engineElements n s = some (.next u) → R s u
  | 0, s, u, h => by simp [engineElements] at h
  | n + 1, s, u, h => by
    rcases engineElements_next h with ⟨hf, rfl⟩ | ⟨i, t, v, hf, he, ⟨-, hr⟩ | ⟨-, rfl⟩⟩
    · exact heos s hf
    · exact htrans _ _ _ (helem s i t v hf he) (engineElements_induction htrans heos helem n v u hr)
    · exact helem s i t u hf he

/-! ## Host accesses -/

/-- A host write that is no RESET: `CTRL`, the colour table in `IDLE`, a push while the input is open, or the read pointer. -/
theorem hostWrite_effect {reg : Nat} {v : Word} {s t : State} (h : hostWrite reg v s = .next t)
    (hr : ¬ (reg = 0 ∧ v.getLsbD 1 = true)) :
    (t = { s with inClosed := t.inClosed, phase := t.phase } ∧ (s.inClosed = true → t.inClosed = true) ∧
      (t.phase = s.phase ∨ (s.phase = .idle ∧ t.phase = .header))) ∨
    (s.phase = .idle ∧ ∃ n, t = { s with ctSize := n }) ∨
    (s.phase = .idle ∧ ∃ (i : Byte) (c : Rgb), t = { s with ct := Memory.write s.ct i.toNat c }) ∨
    (s.inClosed = false ∧ ∃ b, t = { s with inp := s.inp ++ [b] }) ∨ (∃ k, t = { s with outAddr := k }) := by
  rcases hostWrite_next.1 h with ⟨i, hd, he⟩ | ⟨w, -, rfl⟩
  · unfold decodeWrite at hd
    repeat' split at hd
    all_goals simp only [Decoded.instr.injEq, reduceCtorEq] at hd
    all_goals subst hd
    · next h0 h1 => exact absurd ⟨h0, h1⟩ hr
    · simp only [exec, execStart, startSession, Host.Outcome.next.injEq] at he
      subst he
      left
      cases v.getLsbD 2 <;> by_cases hp : s.phase = .idle <;> simp [setInClosed, hp]
    · simp only [exec, execClose, Host.Outcome.next.injEq] at he
      subst he
      simp [setInClosed]
    · simp only [exec, execCtsize] at he
      split at he <;> simp only [Host.Outcome.next.injEq] at he <;> subst he
      · next hp => exact .inr (.inl ⟨hp.1, _, rfl⟩)
      · simp
    · simp only [exec, execPush] at he
      split at he <;> simp only [Host.Outcome.next.injEq] at he <;> subst he
      · simp
      · next hc => exact .inr (.inr (.inr (.inl ⟨by simpa using hc, _, rfl⟩)))
    · simp only [exec, execSetaddr, Host.Outcome.next.injEq] at he
      exact .inr (.inr (.inr (.inr ⟨_, he.symm⟩)))
    · simp only [exec, execCtwr] at he
      split at he <;> simp only [Host.Outcome.next.injEq] at he <;> subst he
      · next hp => exact .inr (.inr (.inl ⟨hp, _, _, rfl⟩))
      · simp
  · simp

/-- A host read changes nothing but the word returned. -/
theorem hostRead_effect {reg : Nat} {s t : State} (h : hostRead reg s = .next t) : t = { s with rdata := t.rdata } := by
  rcases hostRead_next.1 h with ⟨i, hd, he⟩ | ⟨w, -, rfl⟩
  · unfold decodeRead at hd
    repeat' split at hd
    all_goals simp only [Decoded.instr.injEq, reduceCtorEq] at hd
    all_goals
      subst hd
      simp only [exec, execRdstatus, execRdinfo, execRdctsize, execRdpos, execRdcount, execRdaddr, execRdlzw, execRdprev,
        execRdct, execRdpix, Host.Outcome.next.injEq] at he
      subst he
      rfl
  · rfl

end Sys2Proof.Machine
end

