-- ==== Sys2Proof/Laws/PerInstr.lean ====
section
/-! SUPPORT. The family EncodedWidth: an instruction's encoding stands within the whole bytes its format has (30_encoding R91 to
R104), one lemma for each constructor. -/

namespace Sys2Proof.Laws.EncodedWidth

/-- The bits of a well-formed instruction's encoding fit its format's bytes. -/
def Statement (i : Instr) : Prop :=
  ∀ (w : BitVec 4) (r : CodeRegs), r.legal w = true → i.wellFormed = true → i.fits w r = true →
    (encode w r i).bits.toNat < 2 ^ (8 * (encode w r i).ctx.bytes)

/-- No bits, or zero bits, fit anything. -/
theorem no_bits (n : Nat) : (0 : Word).toNat < 2 ^ n := Nat.two_pow_pos n

/-- A byte fits one byte. -/
theorem byte_fits (b : Byte) : ((b.setWidth 32 : Word)).toNat < 2 ^ 8 := by
  have := b.isLt
  simp only [BitVec.toNat_setWidth]
  omega

/-- A word fits four bytes. -/
theorem word_fits (v : Word) : v.toNat < 2 ^ (8 * 4) := v.isLt

/-- A code of `w` bits fits the whole bytes that hold `w` bits. -/
theorem code_fits {w : BitVec 4} {n : Nat} {v : BitVec n} (h : v.toNat < 2 ^ w.toNat) :
    ((v.setWidth 32 : Word)).toNat < 2 ^ (8 * ((w.toNat + 7) / 8)) := by
  rw [BitVec.toNat_setWidth]
  refine lt_of_le_of_lt (Nat.mod_le _ _) (lt_of_lt_of_le h (Nat.pow_le_pow_right (by decide) ?_))
  omega

theorem mcs (n : Byte) : Statement (.mcs n) := fun _ _ _ _ _ => byte_fits n

theorem mcsInvalid (b : Byte) : Statement (.mcsInvalid b) := fun _ _ _ _ _ => byte_fits b

theorem blklen (n : Byte) : Statement (.blklen n) := fun _ _ _ _ _ => byte_fits n

theorem data (x : Byte) : Statement (.data x) := fun _ _ _ _ _ => byte_fits x

theorem lookup (i : Byte) : Statement (.lookup i) := fun _ _ _ _ _ => byte_fits i

theorem term : Statement .term := fun _ _ _ _ _ => no_bits _

theorem clear : Statement .clear := fun _ _ _ _ h => code_fits (of_decide_eq_true h)

theorem endOfInfo : Statement .endOfInfo := fun _ _ _ _ h => code_fits (of_decide_eq_true h)

theorem root (c : Code) : Statement (.root c) := fun _ _ _ _ h => code_fits (of_decide_eq_true h).1

theorem entry (c : Code) : Statement (.entry c) := fun _ _ _ _ h => code_fits (of_decide_eq_true h).1

theorem kwkwk (c : Code) : Statement (.kwkwk c) := fun _ _ _ _ h => code_fits (of_decide_eq_true h).1

theorem nopred (c : Code) : Statement (.nopred c) := fun _ _ _ _ h => code_fits (of_decide_eq_true h).1

theorem beyond (c : Code) : Statement (.beyond c) := fun _ _ _ _ h => code_fits (of_decide_eq_true h).1

theorem finish : Statement .finish := fun _ _ _ _ _ => no_bits _

theorem reset : Statement .reset := fun _ _ _ _ _ => word_fits _

theorem close : Statement .close := fun _ _ _ _ _ => word_fits _

theorem start (alsoClose : Bool) : Statement (.start alsoClose) := fun _ _ _ _ _ => word_fits _

theorem ctsize (v : BitVec 9) : Statement (.ctsize v) := fun _ _ _ _ _ => word_fits _

theorem push (b : Byte) : Statement (.push b) := fun _ _ _ _ _ => word_fits _

theorem setaddr (k : Word) : Statement (.setaddr k) := fun _ _ _ _ _ => word_fits _

theorem ctwr (i r g b : Byte) : Statement (.ctwr i r g b) := fun _ _ _ _ _ => word_fits _

theorem rdstatus : Statement .rdstatus := fun _ _ _ _ _ => no_bits _

theorem rdinfo : Statement .rdinfo := fun _ _ _ _ _ => no_bits _

theorem rdctsize : Statement .rdctsize := fun _ _ _ _ _ => no_bits _

theorem rdpos : Statement .rdpos := fun _ _ _ _ _ => no_bits _

theorem rdcount : Statement .rdcount := fun _ _ _ _ _ => no_bits _

theorem rdaddr : Statement .rdaddr := fun _ _ _ _ _ => no_bits _

theorem rdlzw : Statement .rdlzw := fun _ _ _ _ _ => no_bits _

theorem rdprev : Statement .rdprev := fun _ _ _ _ _ => no_bits _

theorem rdct (i : Byte) : Statement (.rdct i) := fun _ _ _ _ _ => no_bits _

theorem rdpix : Statement .rdpix := fun _ _ _ _ _ => no_bits _

end Sys2Proof.Laws.EncodedWidth
end

