-- ==== Sys2Proof/Tests/Slice0.lean ====
section
/-! SUPPORT. Tests. Expected results are the spec's own: the rule or vector stands beside each. Then, for every obligation with
hypotheses, a state and operands that meet them together. -/

namespace Sys2Proof.Tests

open Sys2Proof.Machine

/-! ## Well-formedness refuses -/

theorem test_wf_mcs : (Instr.mcs 1).wellFormed = false ∧ (Instr.mcs 9).wellFormed = false ∧
    (Instr.mcs 2).wellFormed = true ∧ (Instr.mcs 8).wellFormed = true := by decide
theorem test_wf_mcsInvalid : (Instr.mcsInvalid 2).wellFormed = false ∧ (Instr.mcsInvalid 8).wellFormed = false := by decide
theorem test_wf_blklen : (Instr.blklen 0).wellFormed = false := by decide
theorem test_wf_root : (Instr.root 256).wellFormed = false := by decide
theorem test_wf_entry : (Instr.entry 5).wellFormed = false := by decide
theorem test_wf_kwkwk : (Instr.kwkwk 5).wellFormed = false := by decide
theorem test_wf_nopred : (Instr.nopred 5).wellFormed = false := by decide
theorem test_wf_beyond : (Instr.beyond 6).wellFormed = false := by decide

/-- Widths below 3 and above 12, and registers that are no session's, are refused (30_encoding R95, R98). -/
theorem test_wf_regs : (freshRegs 2).legal 2 = false ∧ (freshRegs 2).legal 13 = false ∧
    ({ freshRegs 2 with eoi := 6 } : CodeRegs).legal 3 = false ∧
    ({ freshRegs 2 with dictSize := 5 } : CodeRegs).legal 3 = false ∧
    ({ freshRegs 8 with dictSize := 4097 } : CodeRegs).legal 12 = false := by decide

/-- Each class condition refuses a code of another class, and a code wider than the width. -/
theorem test_wf_fits : Instr.clear.fits 2 (freshRegs 2) = false ∧ Instr.endOfInfo.fits 2 (freshRegs 2) = false ∧
    (Instr.root 4).fits 3 (freshRegs 2) = false ∧ (Instr.entry 6).fits 3 (freshRegs 2) = false ∧
    (Instr.kwkwk 6).fits 3 (freshRegs 2) = false ∧
    (Instr.nopred 6).fits 3 { freshRegs 2 with prev := 1 } = false ∧ (Instr.beyond 6).fits 3 (freshRegs 2) = false ∧
    (Instr.beyond 8).fits 3 (freshRegs 2) = false := by decide

/-! ## Decoding, by words written out from 30_encoding -/

theorem test_decode_mcs : decodeBytes .mcsByte [0b00000010] = .instr (.mcs 2) ∧
    decodeBytes .mcsByte [0b00001000, 0xFF] = .instr (.mcs 8) := by decide
theorem test_decode_mcsInvalid : decodeBytes .mcsByte [0b00000001] = .instr (.mcsInvalid 1) ∧
    decodeBytes .mcsByte [0b00001001] = .instr (.mcsInvalid 9) := by decide
theorem test_decode_term : decodeBytes .lenByte [0b00000000] = .instr .term := by decide
theorem test_decode_blklen : decodeBytes .lenByte [0b11111111] = .instr (.blklen 255) := by decide
theorem test_decode_data : decodeBytes .dataByte [0b01000100] = .instr (.data 0x44) := by decide

/-- `CLEAR` is a single 1 at bit `MCS` (R97); with `MCS = 8` and 12 bits the second byte holds it. -/
theorem test_decode_clear : decodeBytes (.code 3 (freshRegs 2)) [0b01000100] = .instr .clear ∧
    decodeBytes (.code 12 (freshRegs 8)) [0b00000000, 0b00000001] = .instr .clear := by decide
theorem test_decode_endOfInfo : decodeBytes (.code 4 (freshRegs 2)) [0b00000101] = .instr .endOfInfo ∧
    decodeBytes (.code 12 (freshRegs 8)) [0b00000001, 0b00000001] = .instr .endOfInfo := by decide
theorem test_decode_root : decodeBytes (.code 3 (freshRegs 2)) [0b11111011] = .instr (.root 3) ∧
    decodeBytes (.code 9 (freshRegs 8)) [0b11111111, 0b00000000] = .instr (.root 255) := by decide
/-- Vector V15: `ENTRY 258` in 9 bits, `DICT_SIZE = 259`. -/
theorem test_decode_entry :
    decodeBytes (.code 9 { freshRegs 8 with dictSize := 259, prev := 255 }) [0b00000010, 0b00000001] =
      .instr (.entry 258) := by decide
theorem test_decode_kwkwk :
    decodeBytes (.code 3 { freshRegs 2 with prev := 1 }) [0b00000110] = .instr (.kwkwk 6) := by decide
theorem test_decode_nopred : decodeBytes (.code 3 (freshRegs 2)) [0b00000110] = .instr (.nopred 6) := by decide
theorem test_decode_beyond : decodeBytes (.code 3 (freshRegs 2)) [0b00000111] = .instr (.beyond 7) := by decide
theorem test_decode_lookup : decodeBytes .pixel [0b11111111] = .instr (.lookup 255) := by decide
theorem test_decode_finish : decodeBytes .noOperand [] = .instr .finish := by decide
theorem test_decode_reset : decodeBytes (.regWrite 0) [0b00000111, 0, 0, 0] = .instr .reset := by decide
theorem test_decode_start : decodeBytes (.regWrite 0) [0b00000001, 0, 0, 0] = .instr (.start false) ∧
    decodeBytes (.regWrite 0) [0b11111101, 0xFF, 0xFF, 0xFF] = .instr (.start true) := by decide
theorem test_decode_close : decodeBytes (.regWrite 0) [0b00000100, 0, 0, 0] = .instr .close := by decide
/-- Bits 31:9 of the word are ignored (93 E4). -/
theorem test_decode_ctsize : decodeBytes (.regWrite 3) [0b00000000, 0b11111111, 0xFF, 0xFF] = .instr (.ctsize 256) := by
  decide
/-- Blue is `CT[3] = 0x00FF0000` (40_host_commands R124). -/
theorem test_decode_ctwr : decodeBytes (.regWrite 259) [0x00, 0x00, 0xFF, 0x00] = .instr (.ctwr 3 0 0 0xFF) ∧
    decodeBytes (.regWrite 511) [1, 2, 3, 4] = .instr (.ctwr 255 1 2 3) := by decide
theorem test_decode_push : decodeBytes (.regWrite 4) [0x44, 0x34, 0x05, 0x00] = .instr (.push 0x44) := by decide
theorem test_decode_setaddr : decodeBytes (.regWrite 7) [0x01, 0x02, 0x03, 0x84] = .instr (.setaddr 0x84030201) := by decide
theorem test_decode_rdstatus : decodeBytes (.regRead 1) [] = .instr .rdstatus := by decide
theorem test_decode_rdinfo : decodeBytes (.regRead 2) [] = .instr .rdinfo := by decide
theorem test_decode_rdctsize : decodeBytes (.regRead 3) [] = .instr .rdctsize := by decide
theorem test_decode_rdpos : decodeBytes (.regRead 5) [] = .instr .rdpos := by decide
theorem test_decode_rdcount : decodeBytes (.regRead 6) [] = .instr .rdcount := by decide
theorem test_decode_rdaddr : decodeBytes (.regRead 7) [] = .instr .rdaddr := by decide
theorem test_decode_rdpix : decodeBytes (.regRead 8) [] = .instr .rdpix := by decide
theorem test_decode_rdlzw : decodeBytes (.regRead 9) [] = .instr .rdlzw := by decide
theorem test_decode_rdprev : decodeBytes (.regRead 10) [] = .instr .rdprev := by decide
theorem test_decode_rdct : decodeBytes (.regRead 256) [] = .instr (.rdct 0) ∧
    decodeBytes (.regRead 511) [] = .instr (.rdct 255) := by decide

/-- Rejections by name (10_state R42, R53). -/
theorem test_decode_rejected : decodeBytes .mcsByte [] = .rejected .truncated ∧
    decodeBytes (.regWrite 0) [0xF8, 0xFF, 0xFF, 0xFF] = .rejected .noCommand ∧
    decodeBytes (.regWrite 1) [0, 0, 0, 0] = .rejected (.readOnly 1) ∧ decodeBytes (.regRead 4) [] = .rejected (.writeOnly 4) ∧
    decodeBytes (.regRead 255) [] = .rejected (.reserved 255) ∧ decodeBytes (.regRead 512) [] = .rejected (.reserved 512) := by
  decide

/-! ## States the tests start from -/

/-- The next state, if the outcome is one. -/
def nextState : Host.Outcome State Fault Refusal → Option State
  | .next s    => some s
  | .fault _   => none
  | .refused _ => none

theorem next_of_isSome {o : Host.Outcome State Fault Refusal} (h : (nextState o).isSome = true) : ∃ t, o = .next t := by
  cases o with
  | next t => exact ⟨t, rfl⟩
  | fault _ => simp [nextState] at h
  | refused _ => simp [nextState] at h

/-- A dictionary of `size` entries for the clear code `clear`: the roots, and the string `[0]` in every dynamic cell. -/
def sampleDict (clear size : Nat) : Memory Str :=
  ((List.range size).filter (fun a => decide (a ≠ clear ∧ a ≠ clear + 1))).map
    (fun a => (a, { first := if a < clear then BitVec.ofNat 8 a else 0, rest := [] }))

/-- A session past its header byte: phase, input closed or not, indices, position, raster; then `MCS`, width, size, predecessor. -/
def sampleIn (p : Phase) (closed : Bool) (ix : List Byte) (n : Nat) (o : List Byte)
    (m : Nat) (w : BitVec 4) (size : BitVec 13) (prev : Code) : State :=
  { State.reset with
    phase     := p
    inClosed  := closed
    inp       := [BitVec.ofNat 8 m]
    inPos     := 1
    mcs       := BitVec.ofNat 4 m
    clearCode := BitVec.ofNat 9 (2 ^ m)
    endCode   := BitVec.ofNat 9 (2 ^ m + 1)
    codeSize  := w
    dict      := sampleDict (2 ^ m) size.toNat
    dictSize  := size
    prevCode  := prev
    idx       := ix
    compPos   := n
    out       := o }

/-- A session in the code loop. -/
def sample (m : Nat) (w : BitVec 4) (size : BitVec 13) (prev : Code) : State :=
  sampleIn .lzw false [] 0 [] m w size prev

/-- `MCS = 2` right after the header byte. -/
def fresh2 : State := sample 2 3 6 4
/-- `MCS = 2` after `ROOT 0`. -/
def after0 : State := { sample 2 3 6 0 with lzwState := .decoding, idx := [0] }
/-- Nothing but a phase. -/
def inPhase (p : Phase) : State := { State.reset with phase := p }

/-! ## Meanings, at the spec's examples -/

/-- R142's example: `b = 2`. -/
theorem test_exec_mcs :
    (nextState (step { inPhase .header with inp := [2] })).map (fun t => (t.mcs, t.clearCode, t.endCode, t.codeSize)) =
      some (2, 4, 5, 3) ∧
    (nextState (step { inPhase .header with inp := [2] })).map (fun t => (t.dictSize, t.prevCode, t.inPos, t.phase)) =
      some (6, 4, 1, .lzw) := by decide
/-- R142's example: `b = 1` gives `STATUS = 0x00000C04` with the input closed. -/
theorem test_exec_mcsInvalid :
    (nextState (step { inPhase .header with inp := [1], inClosed := true })).map (fun t => (statusWord t, t.faultInfo)) =
    some (0xC04, 1) := by decide
/-- R144's example: 3 bits needed, 2 buffered, the terminator next. -/
theorem test_exec_term :
    (nextState (step { after0 with inp := [2, 1, 4, 0], inPos := 3, nbits := 2 })).map
      (fun t => (t.phase, t.softEnd, t.lzwState, t.inPos, t.nbits)) =
    some (.composite, true, .done, 4, 2) := by decide
/-- R143's example: after `BLKLEN 3`, `BLK_REM = 3`. -/
theorem test_exec_blklen : (nextState (exec (.blklen 3) fresh2)).map (·.blkRem) = some 3 := by decide
/-- R145's example: `NBITS = 2, ACC = 0b01`, `x = 0x34`. -/
theorem test_exec_data :
    (nextState (exec (.data 0x34) { fresh2 with nbits := 2, acc := 1, blkRem := 2 })).map
      (fun t => (t.nbits, t.acc, t.blkRem)) = some (10, 0x0D1, 1) := by decide
/-- A 12-bit code with 3 bits buffered reads two bytes, across a sub-block boundary (R147, 20_memory R63, R65). -/
theorem test_step_two_bytes :
    (nextState (step { sample 8 12 4096 0 with
      inp := [8, 0x21, 1, 0x03], inPos := 1, blkRem := 1, nbits := 3, acc := 5 })).map
      (fun t => (t.prevCode, t.nbits, t.acc, t.inPos, t.blkRem)) = some (0x90D, 7, 1, 4, 0) := by decide +kernel
/-- R165's example. -/
theorem test_exec_clear :
    (nextState (exec .clear { sample 2 4 9 3 with lzwState := .decoding })).map
      (fun t => (t.dictSize, t.codeSize, t.prevCode, t.lzwState)) = some (6, 3, 4, .cleared) := by decide
/-- R166: the width and the size stay. -/
theorem test_exec_endOfInfo :
    (nextState (exec .endOfInfo { sample 2 4 8 3 with lzwState := .decoding })).map
      (fun t => (t.eoiSeen, t.lzwState, t.phase, t.codeSize, t.dictSize)) = some (true, .done, .composite, 4, 8) := by decide
/-- R167's example: `PREV_CODE = 0, DICT_SIZE = 6`, code 1. -/
theorem test_exec_root :
    (nextState (exec (.root 1) after0)).map (fun t => (t.idx, Memory.read t.dict 6, t.dictSize, t.prevCode)) =
    some ([0, 1], some { first := 0, rest := [1] }, 7, 1) := by decide
/-- R172's example: `DICT_SIZE = 7, CODE_SIZE = 3`, `ROOT 2` widens. -/
theorem test_exec_root_widens :
    (nextState (exec (.root 2) (sample 2 3 7 1))).map (fun t => (t.dictSize, t.codeSize)) = some (8, 4) := by decide
/-- R168's example: `DICT[258] = [0, 255]`, `PREV_CODE = 255`, code 258. -/
theorem test_exec_entry :
    (nextState (exec (.entry 258) { sample 8 9 259 255 with
      dict := Memory.write (sampleDict 256 258) 258 { first := 0, rest := [255] } })).map
      (fun t => (t.idx, Memory.read t.dict 259, t.dictSize)) =
    some ([0, 255], some { first := 255, rest := [0] }, 260) := by decide +kernel
/-- R169's example: `PREV_CODE = 1, DICT_SIZE = 6`, code 6. -/
theorem test_exec_kwkwk :
    (nextState (exec (.kwkwk 6) (sample 2 3 6 1))).map (fun t => (t.idx, Memory.read t.dict 6, t.dictSize, t.prevCode)) =
    some ([1, 1], some { first := 1, rest := [1] }, 7, 6) := by decide
/-- R170's example: `DICT_SIZE = 6`, code 7. -/
theorem test_exec_beyond :
    (nextState (exec (.beyond 7) (sample 2 3 6 4))).map (fun t => (t.fault, t.faultInfo, t.phase)) =
    some (.invalidCode, 7, .fault) := by decide
/-- R171's example: `CLEAR` then code 6; the step reads it from the accumulator. -/
theorem test_exec_nopred :
    (nextState (step { fresh2 with lzwState := .cleared, nbits := 3, acc := 6 })).map
      (fun t => (t.fault, t.faultInfo, t.lzwState, t.nbits)) = some (.invalidCode, 6, .cleared, 0) := by decide
/-- R190's example: `CT[1] = (255, 0, 0)`, `i = 1`. -/
theorem test_exec_lookup :
    (nextState (exec (.lookup 1) { inPhase .composite with ctSize := 4, ct := [(1, 0x0000FF)] })).map (·.out) =
    some [0xFF, 0, 0, 0xFF] := by decide
/-- R191's example: `CT_SIZE = 2`, the index 2. -/
theorem test_exec_lookup_fault :
    (nextState (exec (.lookup 2) { inPhase .composite with ctSize := 2, compPos := 2 })).map
      (fun t => (t.fault, t.faultInfo, t.compPos, t.out)) = some (.colorIndexOutOfRange, 2, 2, []) := by decide
/-- R192: at once when `IDX` is empty. -/
theorem test_exec_finish : (nextState (step (inPhase .composite))).map (·.phase) = some .done := by decide
/-- R120's example: after a fault, RESET makes `STATUS` read 0. -/
theorem test_exec_reset :
    (nextState (step { raise .invalidCode 7 fresh2 with agenda := [.write 0 2] })).map
      (fun t => (statusWord t, t.inp, t.mcs, t.dict)) = some (0, [], 0, []) := by decide
/-- R121's example; outside `IDLE` START is ignored. -/
theorem test_exec_start :
    (nextState (step { State.reset with agenda := [.write 0 1] })).map (fun t => (statusWord t).toNat % 8) = some 1 ∧
    (nextState (exec (.start false) fresh2)).map (·.phase) = some .lzw := by decide
/-- R130: `CTRL = 0x5` does both. -/
theorem test_exec_start_close :
    (nextState (step { State.reset with agenda := [.write 0 5] })).map (fun t => (t.phase, t.inClosed)) =
    some (.header, true) := by decide
theorem test_exec_close : (nextState (exec .close fresh2)).map (·.inClosed) = some true := by decide
/-- R123: 256 is taken, 257 is ignored. -/
theorem test_exec_ctsize : (nextState (exec (.ctsize 256) { State.reset with ctSize := 4 })).map (·.ctSize) = some 256 ∧
    (nextState (exec (.ctsize 257) { State.reset with ctSize := 4 })).map (·.ctSize) = some 4 := by decide
/-- R124's example, red, read back through register 257 (10_state R52). -/
theorem test_exec_ctwr :
    (nextState (exec (.ctwr 1 0xFF 0 0) State.reset)).map (fun t => ctWord t 1) = some 0x000000FF ∧
    (nextState (exec (.ctwr 1 0xFF 0 0) (inPhase .header))).map (·.ct) = some [] := by decide
/-- R125: nothing after CLOSE. -/
theorem test_exec_push : (nextState (exec (.push 3) { State.reset with inp := [2] })).map (·.inp) = some [2, 3] ∧
    (nextState (exec (.push 3) { State.reset with inp := [2], inClosed := true })).map (·.inp) = some [2] := by decide
theorem test_exec_setaddr :
    (nextState (exec (.setaddr 0xFFFFFFFF) (inPhase .done))).map (·.outAddr) = some 0xFFFFFFFF := by decide
/-- R40's example: a session that ended on an End code with the input closed. -/
theorem test_exec_rdstatus :
    (nextState (exec .rdstatus { inPhase .done with lzwState := .done, eoiSeen := true, inClosed := true })).map (·.rdata) =
    some 0x91C := by decide
theorem test_exec_rdinfo : (nextState (exec .rdinfo { inPhase .fault with faultInfo := 0xFFF })).map (·.rdata) = some 0xFFF := by
  decide
theorem test_exec_rdctsize : (nextState (exec .rdctsize { State.reset with ctSize := 256 })).map (·.rdata) = some 256 := by
  decide
/-- R46: modulo `2^32`. -/
theorem test_exec_rdpos : (nextState (exec .rdpos { State.reset with inPos := 4294967301 })).map (·.rdata) = some 5 := by decide
/-- R47: 0 outside `DONE`. -/
theorem test_exec_rdcount :
    (nextState (exec .rdcount { inPhase .done with out := [1, 2, 3, 255, 4, 5, 6, 255] })).map (·.rdata) = some 2 ∧
    (nextState (exec .rdcount { inPhase .composite with out := [1, 2, 3, 255] })).map (·.rdata) = some 0 := by decide
theorem test_exec_rdaddr : (nextState (exec .rdaddr { State.reset with outAddr := 9 })).map (·.rdata) = some 9 := by decide
/-- R50: `CODE_SIZE` in bits 3:0, `MCS` in 7:4, `DICT_SIZE` in 20:8. -/
theorem test_exec_rdlzw : (nextState (exec .rdlzw fresh2)).map (·.rdata) = some 0x623 := by decide
theorem test_exec_rdprev : (nextState (exec .rdprev { fresh2 with prevCode := 0xABC })).map (·.rdata) = some 0xABC := by decide
/-- R52: bits 31:24 zero. -/
theorem test_exec_rdct :
    (nextState (exec (.rdct 3) { State.reset with ct := [(3, 0xFF0000)] })).map (·.rdata) = some 0x00FF0000 := by decide
/-- R128's example: `OUT_ADDR = 1`, red. -/
theorem test_exec_rdpix :
    (nextState (exec .rdpix { inPhase .done with outAddr := 1, out := [0, 0, 0, 255, 255, 0, 0, 255] })).map (·.rdata) =
    some 0xFF0000FF := by decide
theorem test_exec_rdpix_gated :
    (nextState (exec .rdpix { inPhase .composite with out := [1, 2, 3, 255] })).map (·.rdata) = some 0 ∧
    (nextState (exec .rdpix { inPhase .done with outAddr := 1, out := [1, 2, 3, 255] })).map (·.rdata) = some 0 := by decide

/-- A held step keeps nothing (41_bit_reader R141; the situation of vector H12): a length byte and no data byte yet. -/
theorem test_step_held :
    nextState (step { fresh2 with inp := [2, 3] }) = some { fresh2 with inp := [2, 3] } := by decide

/-! ## Words of the opcode table (log entry 9) -/

theorem test_table_words :
    decodeTableWord 8 0x03 = some (.mcs 3) ∧ decodeTableWord 8 0x00 = some (.root 0) ∧
    decodeTableWord 8 0x04 = some .clear ∧ decodeTableWord 12 0x101 = some .endOfInfo ∧
    decodeTableWord 8 0x02 = some .reset ∧ decodeTableWord 32 0x4 = some .close := by decide

theorem test_table_fetch :
    (nextState (step (State.reset.withFetchWord 8 0x03))).map (·.mcs) = some 3 ∧
    (nextState (step (State.reset.withFetchWord 8 0x00))).map (·.idx) = some [0] ∧
    (nextState (step (State.reset.withFetchWord 12 0x101))).map (·.eoiSeen) = some true ∧
    (nextState (step (State.reset.withFetchWord 32 0x4))).map (·.inClosed) = some true := by decide +kernel

/-! ## The sample sessions meet the invariant -/

theorem sampleDict_wf (clear size : Nat) : Memory.wf (sampleDict clear size) := by
  unfold Memory.wf sampleDict
  exact List.pairwise_map.2 (List.Pairwise.filter _ List.pairwise_lt_range)

theorem sampleDict_cells {clear size : Nat} {e : Nat × Str} (h : e ∈ sampleDict clear size) :
    e.1 < size ∧ e.1 ≠ clear ∧ e.1 ≠ clear + 1 := by
  simp only [sampleDict, List.mem_map, List.mem_filter, List.mem_range, decide_eq_true_eq] at h
  obtain ⟨i, ⟨h1, h2, h3⟩, rfl⟩ := h
  exact ⟨h1, h2, h3⟩

theorem sampleDict_read {clear size a : Nat} (h : a < size ∧ a ≠ clear ∧ a ≠ clear + 1) :
    Memory.read (sampleDict clear size) a =
      some { first := if a < clear then BitVec.ofNat 8 a else 0, rest := [] } := by
  refine read_map_cells (f := fun a => ({ first := if a < clear then BitVec.ofNat 8 a else 0, rest := [] } : Str)) ?_
  simp only [List.mem_filter, List.mem_range, decide_eq_true_eq]
  exact h

/-- The numbers of a sample, from which its invariant follows. -/
theorem sampleIn_inv {p : Phase} {closed : Bool} {ix : List Byte} {n : Nat} {o : List Byte}
    {m : Nat} {w : BitVec 4} {size : BitVec 13} {prev : Code}
    (hp : p = .lzw ∨ p = .composite ∨ p = .done)
    (hix : ∀ x ∈ ix, x.toNat < 2 ^ m) (hn : n ≤ ix.length ∧ o.length = 4 * n ∧ (p = .lzw → n = 0) ∧ (p = .done → n = ix.length))
    (hm : 2 ≤ m ∧ m ≤ 8) (hw : m + 1 ≤ w.toNat ∧ w.toNat ≤ 12) (hs : 2 ^ m + 2 ≤ size.toNat ∧ size.toNat ≤ 4096)
    (h6 : size.toNat ≤ 2 ^ w.toNat) (h7 : size.toNat = 2 ^ w.toNat → w.toNat = 12) (h8 : 2 ^ (w.toNat - 1) ≤ size.toNat)
    (hprev : prev.toNat = 2 ^ m ∨ (prev.toNat < size.toNat ∧ prev.toNat ≠ 2 ^ m ∧ prev.toNat ≠ 2 ^ m + 1))
    (hfresh : prev.toNat = 2 ^ m → size.toNat = 2 ^ m + 2 ∧ w.toNat = m + 1) :
    BlockInv (sampleIn p closed ix n o m w size prev) := by
  have hpow : 2 ^ m ≤ 2 ^ 8 := Nat.pow_le_pow_right (by decide) hm.2
  have em : (sampleIn p closed ix n o m w size prev).mcs.toNat = m := by
    show (BitVec.ofNat 4 m).toNat = m
    rw [BitVec.toNat_ofNat]; omega
  have ec : (sampleIn p closed ix n o m w size prev).clearCode.toNat = 2 ^ m := by
    show (BitVec.ofNat 9 (2 ^ m)).toNat = 2 ^ m
    rw [BitVec.toNat_ofNat]; exact Nat.mod_eq_of_lt (by omega)
  have ee : (sampleIn p closed ix n o m w size prev).endCode.toNat = 2 ^ m + 1 := by
    show (BitVec.ofNat 9 (2 ^ m + 1)).toNat = 2 ^ m + 1
    rw [BitVec.toNat_ofNat]; exact Nat.mod_eq_of_lt (by omega)
  have entry : ∀ c : Code, c.toNat < size.toNat ∧ c.toNat ≠ 2 ^ m ∧ c.toNat ≠ 2 ^ m + 1 →
      dictRead (sampleIn p closed ix n o m w size prev) c =
        some { first := if c.toNat < 2 ^ m then BitVec.ofNat 8 c.toNat else 0, rest := [] } := fun c hc =>
    dictRead_some.2 ⟨isDataEntry_iff.2 (by rw [ec, ee]; exact hc), sampleDict_read hc⟩
  have pne : p ≠ .idle ∧ p ≠ .header ∧ p ≠ .fault := by rcases hp with rfl | rfl | rfl <;> decide
  refine ⟨⟨sampleDict_wf _ _, by simp [sampleIn, State.reset], by simp [sampleIn, State.reset]⟩,
    ⟨by show (0 : BitVec 19).toNat < _; simp, by simp [sampleIn, State.reset], by simp [sampleIn, State.reset],
      by simp [sampleIn, State.reset]⟩,
    ⟨hn.1, hn.2.1, hn.2.2.1, hn.2.2.2⟩,
    ⟨by simpa [sampleIn, State.reset] using pne.2.2, by simp [sampleIn, State.reset], by simp [sampleIn, State.reset],
      by simp [sampleIn, State.reset], by simp [sampleIn, State.reset]⟩,
    .inr ⟨⟨by rw [em]; exact hm, by rw [ec, em], by rw [ee, ec], by rw [em]; exact hw, by rw [ec]; exact hs, h6, h7, h8⟩,
      ⟨?_, ?_, ?_⟩, ?_, ?_, by rw [ec]; exact hix, ⟨pne.1, pne.2.1⟩⟩⟩
  · intro c hc
    rw [ec] at hc
    rw [entry c (by omega), if_pos hc]
    rfl
  · intro c hc
    have hc := isDataEntry_iff.1 hc
    rw [ec, ee] at hc
    refine ⟨_, entry c hc, ?_, ?_⟩
    · rw [ec]
      simp only [Str.toList, List.mem_singleton, forall_eq]
      split
      · next hlt => rw [BitVec.toNat_ofNat]; exact lt_of_le_of_lt (Nat.mod_le _ _) hlt
      · show 0 < 2 ^ m; exact Nat.two_pow_pos m
    · rw [ec]
      show 1 + 2 ^ m + 1 ≤ size.toNat
      omega
  · intro e he
    rw [ec, ee]
    exact sampleDict_cells he
  · rw [ec]
    refine hprev.imp id fun h => isDataEntry_iff.2 ?_
    rw [ec, ee]
    exact h
  · rw [ec, em]
    exact hfresh

theorem fresh2_inv : BlockInv fresh2 :=
  sampleIn_inv (.inl rfl) (by decide) (by decide) (by decide) (by decide) (by decide) (by decide) (by decide) (by decide)
    (by decide) (by decide)

/-! ## Witnesses: a state and operands that meet the hypotheses of an obligation, for each of its clauses -/

theorem not_resetDue {s : State} (h : s.agenda = []) : ¬ ResetDue s := by
  rintro ⟨v, r, hr, -⟩
  rw [h] at hr
  cases hr

/-- `EncodeThenDecode`, a code at the top of its width and the other families at a boundary. -/
theorem witness_EncodeThenDecode :
    (freshRegs 2).legal 3 = true ∧ (freshRegs 8).legal 12 = true ∧
    (Instr.beyond 7).wellFormed = true ∧ (Instr.beyond 7).fits 3 (freshRegs 2) = true ∧
    (Instr.nopred 258).wellFormed = true ∧ (Instr.nopred 258).fits 12 (freshRegs 8) = true ∧
    Instr.clear.fits 3 (freshRegs 2) = true ∧ Instr.endOfInfo.fits 3 (freshRegs 2) = true ∧
    (Instr.root 255).wellFormed = true ∧ (Instr.root 255).fits 12 (freshRegs 8) = true ∧
    (Instr.entry 6).wellFormed = true ∧ (Instr.entry 6).fits 3 { freshRegs 2 with dictSize := 7 } = true ∧
    (Instr.kwkwk 6).wellFormed = true ∧ (Instr.kwkwk 6).fits 3 { freshRegs 2 with prev := 1 } = true ∧
    (Instr.mcs 8).wellFormed = true ∧ (Instr.mcsInvalid 255).wellFormed = true ∧ (Instr.blklen 255).wellFormed = true := by
  decide

theorem witness_DecodeThenEncodeCodes :
    (freshRegs 2).legal 3 = true ∧ decode (.code 3 (freshRegs 2)) 0xFB = .instr (.root 3) := by decide

theorem witness_DecodedIsWellFormed :
    (∀ w r, Context.code 3 (freshRegs 2) = .code w r → r.legal w = true) ∧
    decode (.code 3 (freshRegs 2)) 7 = .instr (.beyond 7) := by
  refine ⟨fun w r h => ?_, by decide⟩
  cases h
  decide

theorem witness_CodeClassConditions : (freshRegs 8).legal 9 = true ∧ (freshRegs 2).legal 12 = true := by decide

/-- `InvKeptByEveryStep`: a code step from a running session, and a RESET. -/
theorem witness_InvKeptByEveryStep : (BlockInv fresh2 ∧ ∃ t, step fresh2 = .next t) ∧
    BlockInv State.reset ∧ ∃ t, step State.reset = .next t := by
  refine ⟨⟨fresh2_inv, next_of_isSome (by decide)⟩, ?_, next_of_isSome (by decide)⟩
  refine ⟨⟨?_, ?_, ?_⟩, ⟨?_, ?_, ?_, ?_⟩, ⟨?_, ?_, ?_, ?_⟩, ⟨?_, ?_, ?_, ?_, ?_⟩, .inl ⟨?_, ?_, ?_, ?_⟩⟩ <;>
    simp [State.reset]

theorem witness_MemoriesStayCanonical : MemoriesWf { after0 with nbits := 3, acc := 1, ct := [(0, 1), (255, 2)] } ∧
    ∃ t, step { after0 with nbits := 3, acc := 1, ct := [(0, 1), (255, 2)] } = .next t := by
  refine ⟨⟨sampleDict_wf _ _, ?_, ?_⟩, next_of_isSome (by decide)⟩ <;> decide

theorem witness_PixelsStayOpaque :
    OpaquePixels { inPhase .composite with out := [1, 2, 3, 255], idx := [0, 0], compPos := 1, ctSize := 1 } ∧
    ∃ t, step { inPhase .composite with out := [1, 2, 3, 255], idx := [0, 0], compPos := 1, ctSize := 1 } = .next t := by
  refine ⟨⟨by decide, fun k hk => ?_⟩, next_of_isSome (by decide)⟩
  have h : 4 * k + 3 < 4 := hk
  obtain rfl : k = 0 := by omega
  rfl

theorem witness_InvStatesAlwaysStep : BlockInv (sample 8 12 4096 4095) :=
  sampleIn_inv (.inl rfl) (by decide) (by decide) (by decide) (by decide) (by decide) (by decide) (by decide) (by decide)
    (by decide) (by decide)

theorem witness_ClosedSessionsTerminate :
    BlockInv (sampleIn .lzw true [] 0 [] 2 3 6 4) ∧ (sampleIn .lzw true [] 0 [] 2 3 6 4).agenda = [] ∧
    (sampleIn .lzw true [] 0 [] 2 3 6 4).inClosed = true ∧ (sampleIn .lzw true [] 0 [] 2 3 6 4).phase ≠ .idle :=
  ⟨sampleIn_inv (.inl rfl) (by decide) (by decide) (by decide) (by decide) (by decide) (by decide) (by decide) (by decide)
    (by decide) (by decide), rfl, rfl, by decide⟩

theorem witness_StepRunsDecodedInstruction_header :
    EngineDue { inPhase .header with inp := [8] } { inPhase .header with inp := [8] } ∧
    ({ inPhase .header with inp := [8] } : State).inp[0]? = some 8 ∧
    decode .mcsByte ((8 : Byte).setWidth 32) = .instr (.mcs 8) := ⟨.inl ⟨rfl, rfl⟩, by decide, by decide⟩
/-- The engine's turn from the agenda, and a code of exactly the buffered bits. -/
theorem witness_StepRunsDecodedInstruction_code :
    EngineDue { fresh2 with nbits := 3, acc := 4, agenda := [.engine, .read 1] }
      { fresh2 with nbits := 3, acc := 4, agenda := [.read 1] } ∧
    fresh2.phase = .lzw ∧ (3 : BitVec 4).toNat ≤ (3 : BitVec 5).toNat ∧
    decode (.code fresh2.codeSize (codeRegs fresh2)) ((4 : BitVec 19).setWidth 32) = .instr .clear :=
  ⟨.inr ⟨_, rfl, rfl⟩, by decide, by decide, by decide⟩
theorem witness_StepRunsDecodedInstruction_pixel :
    EngineDue { inPhase .composite with idx := [255] } { inPhase .composite with idx := [255] } ∧
    ({ inPhase .composite with idx := [255] } : State).idx[0]? = some 255 ∧
    decode .pixel ((255 : Byte).setWidth 32) = .instr (.lookup 255) := ⟨.inl ⟨rfl, rfl⟩, by decide, by decide⟩
theorem witness_StepRunsDecodedInstruction_finish :
    EngineDue (inPhase .composite) (inPhase .composite) ∧ (inPhase .composite).compPos = (inPhase .composite).idx.length ∧
    decode .noOperand 0 = .instr .finish := ⟨.inl ⟨rfl, rfl⟩, by decide, by decide⟩
theorem witness_StepRunsDecodedInstruction_host :
    ({ State.reset with agenda := [.write 511 7, .engine] } : State).agenda = .write 511 7 :: [.engine] ∧
    decode (.regWrite 511) 7 = .instr (.ctwr 255 7 0 0) ∧
    ({ State.reset with agenda := [.read 8] } : State).agenda = .read 8 :: [] ∧ decode (.regRead 8) 0 = .instr .rdpix :=
  ⟨rfl, by decide, rfl, by decide⟩

/-- `CodeStepReadsCode`: the terminator, a length byte, a data byte, one bit short; the input ended; a code of exactly the
buffered bits, at the widest. -/
theorem witness_CodeStepReadsCode :
    fresh2.phase = .lzw ∧ (2 : BitVec 5).toNat < fresh2.codeSize.toNat ∧ fresh2.blkRem = 0 ∧
    ({ fresh2 with inp := [2, 0] } : State).inp[fresh2.inPos]? = some 0 ∧
    decode .lenByte ((0 : Byte).setWidth 32) = .instr .term ∧
    decode .lenByte ((255 : Byte).setWidth 32) = .instr (.blklen 255) ∧
    decode .dataByte ((0 : Byte).setWidth 32) = .instr (.data 0) ∧
    fresh2.inp[fresh2.inPos]? = none ∧ ({ fresh2 with inClosed := true } : State).inClosed = true ∧
    (sample 2 12 4096 4).codeSize.toNat ≤ 12 ∧
    (sample 2 12 4096 4).codeSize.toNat ≤ ({ sample 2 12 4096 4 with nbits := 12, acc := 4095 } : State).nbits.toNat := by
  decide

/-- `CodeBitsComeLowFirst`: one byte for a code of the 8 bits above 4; two bytes for a code of 12 bits with none buffered. -/
theorem witness_CodeBitsComeLowFirst :
    EngineDue { sample 8 12 4096 0 with inp := [8, 1, 2], nbits := 4, acc := 15, blkRem := 1 }
      { sample 8 12 4096 0 with inp := [8, 1, 2], nbits := 4, acc := 15, blkRem := 1 } ∧
    (sample 8 12 4096 0).phase = .lzw ∧ (sample 8 12 4096 0).codeSize.toNat ≤ 12 ∧
    (15 : BitVec 19).toNat < 2 ^ (4 : BitVec 5).toNat ∧ (4 : BitVec 5).toNat < (sample 8 12 4096 0).codeSize.toNat ∧
    ({ sample 8 12 4096 0 with inp := [8, 1, 2] } : State).inp[1]? = some 1 ∧
    (sample 8 12 4096 0).codeSize.toNat ≤ (4 : BitVec 5).toNat + 8 ∧
    (0 : BitVec 19).toNat < 2 ^ (0 : BitVec 5).toNat ∧ (0 : BitVec 5).toNat + 8 < (sample 8 12 4096 0).codeSize.toNat ∧
    2 ≤ (2 : BitVec 8).toNat ∧ ({ sample 8 12 4096 0 with inp := [8, 1, 2] } : State).inp[1 + 1]? = some 2 :=
  ⟨.inl ⟨rfl, rfl⟩, by decide, by decide, by decide, by decide, by decide, by decide, by decide, by decide, by decide,
    by decide⟩

/-- `HeldStepConsumesNothing`: at the header, in the code loop, and after a length byte. -/
theorem witness_HeldStepConsumesNothing :
    EngineDue (inPhase .header) (inPhase .header) ∧ (inPhase .header).inClosed = false ∧ (inPhase .header).inp[0]? = none ∧
    EngineDue fresh2 fresh2 ∧ fresh2.inClosed = false ∧ fresh2.inp[fresh2.inPos]? = none ∧
    fresh2.nbits.toNat < fresh2.codeSize.toNat ∧ fresh2.blkRem = 0 ∧
    ({ fresh2 with inp := [2, 1] } : State).inp[1]? = some 1 ∧ (1 : Byte) ≠ 0 ∧
    ({ fresh2 with inp := [2, 1] } : State).inp[2]? = none :=
  ⟨.inl ⟨rfl, rfl⟩, by decide, by decide, .inl ⟨rfl, rfl⟩, by decide, by decide, by decide, by decide, by decide, by decide,
    by decide⟩

/-- `EndOfInputRaises`: the same with the input closed. -/
theorem witness_EndOfInputRaises :
    EngineDue { inPhase .header with inClosed := true } { inPhase .header with inClosed := true } ∧
    ({ inPhase .header with inClosed := true } : State).inp[0]? = none ∧
    EngineDue { fresh2 with inClosed := true, nbits := 2 } { fresh2 with inClosed := true, nbits := 2 } ∧
    (2 : BitVec 5).toNat < fresh2.codeSize.toNat ∧ fresh2.inp[fresh2.inPos]? = none ∧ fresh2.blkRem = 0 ∧
    ({ fresh2 with inp := [2, 255], inClosed := true } : State).inp[1]? = some 255 ∧ (255 : Byte) ≠ 0 ∧
    ({ fresh2 with inp := [2, 255], inClosed := true } : State).inp[2]? = none :=
  ⟨.inl ⟨rfl, rfl⟩, by decide, .inl ⟨rfl, rfl⟩, by decide, by decide, by decide, by decide, by decide, by decide⟩

theorem witness_PushCommutesWithEngineStep :
    ({ fresh2 with inp := [2, 1, 4] } : State).inClosed = false ∧
    ∃ t, engineStep { fresh2 with inp := [2, 1, 4] } = some (.next t) := by
  refine ⟨rfl, ?_⟩
  have h : ((engineStep { fresh2 with inp := [2, 1, 4] }).bind nextState).isSome = true := by decide
  cases e : engineStep { fresh2 with inp := [2, 1, 4] } with
  | none => rw [e] at h; cases h
  | some o =>
    rw [e] at h
    obtain ⟨t, rfl⟩ := next_of_isSome h
    exact ⟨t, rfl⟩

/-- `HeaderStepRule`: a legal and an illegal byte, the two ends of the legal range, and no byte. -/
theorem witness_HeaderStepRule :
    EngineDue { inPhase .header with inp := [9] } { inPhase .header with inp := [9] } ∧
    ({ inPhase .header with inp := [9] } : State).inp[0]? = some 9 ∧ (inPhase .header).inp[0]? = none ∧
    ({ inPhase .header with inClosed := true } : State).inClosed = true ∧
    2 ≤ (2 : Byte).toNat ∧ (2 : Byte).toNat ≤ 8 ∧ 2 ≤ (8 : Byte).toNat ∧ (8 : Byte).toNat ≤ 8 :=
  ⟨.inl ⟨rfl, rfl⟩, by decide, by decide, rfl, by decide, by decide, by decide, by decide⟩

/-- `TermEndsLoopSoftly`: a code step one bit short with the terminator next. -/
theorem witness_TermEndsLoopSoftly :
    EngineDue { fresh2 with inp := [2, 0], nbits := 2 } { fresh2 with inp := [2, 0], nbits := 2 } ∧
    fresh2.phase = .lzw ∧ (2 : BitVec 5).toNat < fresh2.codeSize.toNat ∧ fresh2.blkRem = 0 ∧
    ({ fresh2 with inp := [2, 0] } : State).inp[fresh2.inPos]? = some 0 :=
  ⟨.inl ⟨rfl, rfl⟩, by decide, by decide, by decide, by decide⟩

/-- `DataBuffersByte` at the most bits a pull starts from. -/
theorem witness_DataBuffersByte :
    0 < ({ fresh2 with blkRem := 1, nbits := 11, acc := 2047 } : State).blkRem.toNat ∧
    ({ fresh2 with blkRem := 1, nbits := 11, acc := 2047 } : State).nbits.toNat ≤ 11 ∧
    ({ fresh2 with blkRem := 1, nbits := 11, acc := 2047 } : State).acc.toNat < 2 ^ (11 : BitVec 5).toNat := by decide

theorem witness_ClearRestoresRoots : 2 ≤ (sample 8 9 258 256).mcs.toNat ∧ (sample 8 9 258 256).mcs.toNat ≤ 8 ∧
    (sample 8 9 258 256).clearCode.toNat = 2 ^ (sample 8 9 258 256).mcs.toNat ∧
    (sample 8 9 258 256).endCode.toNat = (sample 8 9 258 256).clearCode.toNat + 1 := by decide

/-- `RootOutputsAndAppends`: without a predecessor, and with one. -/
theorem witness_RootOutputsAndAppends :
    (3 : Code).toNat < fresh2.clearCode.toNat ∧ dictRead fresh2 3 = some { first := 3, rest := [] } ∧
    fresh2.prevCode.toNat = fresh2.clearCode.toNat ∧
    dictRead after0 3 = some { first := 3, rest := [] } ∧ after0.prevCode.toNat ≠ after0.clearCode.toNat ∧
    dictRead after0 after0.prevCode = some { first := 0, rest := [] } := by decide

/-- `EntryOutputsAndAppends`: an entry at the top of the table, with a predecessor, and (in a state no run reaches) without. -/
theorem witness_EntryOutputsAndAppends :
    (sample 2 3 7 6).endCode.toNat < (6 : Code).toNat ∧ (6 : Code).toNat < (sample 2 3 7 6).dictSize.toNat ∧
    dictRead (sample 2 3 7 6) 6 = some { first := 0, rest := [] } ∧
    (sample 2 3 7 6).prevCode.toNat ≠ (sample 2 3 7 6).clearCode.toNat ∧
    dictRead (sample 2 3 7 6) (sample 2 3 7 6).prevCode = some { first := 0, rest := [] } ∧
    dictRead (sample 2 3 7 4) 6 = some { first := 0, rest := [] } ∧
    (sample 2 3 7 4).prevCode.toNat = (sample 2 3 7 4).clearCode.toNat := by decide

theorem witness_KwkwkOutputsAndAppends :
    (6 : Code).toNat = after0.dictSize.toNat ∧ after0.prevCode.toNat ≠ after0.clearCode.toNat ∧
    dictRead after0 after0.prevCode = some { first := 0, rest := [] } ∧
    after0.endCode.toNat = after0.clearCode.toNat + 1 ∧ after0.clearCode.toNat + 2 ≤ after0.dictSize.toNat := by decide

/-- `UndefinedCellsRefuse`: a code that is no data entry; a predecessor that is none. -/
theorem witness_UndefinedCellsRefuse : dictRead fresh2 5 = none ∧ dictRead (sample 2 3 6 7) 7 = none ∧
    (sample 2 3 6 7).prevCode.toNat ≠ (sample 2 3 6 7).clearCode.toNat := by decide

theorem sample_read {m : Nat} {w : BitVec 4} {size : BitVec 13} {prev c : Code}
    (h : isDataEntry (sample m w size prev) c = true)
    (hc : c.toNat < size.toNat ∧ c.toNat ≠ 2 ^ m ∧ c.toNat ≠ 2 ^ m + 1) : ∃ p, dictRead (sample m w size prev) c = some p :=
  ⟨_, dictRead_some.2 ⟨h, sampleDict_read hc⟩⟩

theorem witness_FullDictionaryAcceptsEveryCode : BlockInv (sample 2 12 4096 0) ∧ (sample 2 12 4096 0).phase = .lzw ∧
    (sample 2 12 4096 0).dictSize.toNat = 4096 ∧ (∃ p, dictRead (sample 2 12 4096 0) 4095 = some p) ∧
    (∃ t, step (sample 2 12 4096 0) = .next t) ∧ ¬ ResetDue (sample 2 12 4096 0) :=
  ⟨sampleIn_inv (.inl rfl) (by decide) (by decide) (by decide) (by decide) (by decide) (by decide) (by decide) (by decide)
    (by decide) (by decide), rfl, rfl, sample_read (by decide) (by decide), next_of_isSome (by decide), not_resetDue rfl⟩

/-- `WidthChangesInThreePlaces`: the header step, `CLEAR` at width 4, and a root that fills width 3. -/
theorem witness_WidthChangesInThreePlaces :
    (nextState (step { inPhase .header with inp := [2] })).map (·.codeSize) = some 3 ∧
    BlockInv (sample 2 4 9 3) ∧
    (nextState (step { sample 2 4 9 3 with nbits := 4, acc := 4 })).map (·.codeSize) = some 3 ∧
    BlockInv (sample 2 3 7 1) ∧
    (nextState (step { sample 2 3 7 1 with nbits := 3, acc := 2 })).map (·.codeSize) = some 4 :=
  ⟨by decide, sampleIn_inv (.inl rfl) (by decide) (by decide) (by decide) (by decide) (by decide) (by decide) (by decide)
    (by decide) (by decide) (by decide), by decide, sampleIn_inv (.inl rfl) (by decide) (by decide) (by decide) (by decide)
    (by decide) (by decide) (by decide) (by decide) (by decide) (by decide), by decide⟩

theorem witness_OnlyRootsWithoutPredecessor : BlockInv fresh2 ∧ fresh2.phase = .lzw ∧
    fresh2.prevCode.toNat = fresh2.clearCode.toNat := ⟨fresh2_inv, rfl, by decide⟩

/-- `LookupRule`: the last cell of a full table; the first index beyond a table, and any index of an empty one. -/
theorem witness_LookupRule :
    (255 : Byte).toNat < ({ inPhase .composite with ctSize := 256, ct := [(255, 0x030201)] } : State).ctSize.toNat ∧
    Memory.read ({ inPhase .composite with ctSize := 256, ct := [(255, 0x030201)] } : State).ct 255 = some 0x030201 ∧
    ({ inPhase .composite with ctSize := 255 } : State).ctSize.toNat ≤ (255 : Byte).toNat ∧
    (inPhase .composite).ctSize.toNat ≤ (0 : Byte).toNat := by decide

theorem witness_ResultCoversEveryIndex : BlockInv (sampleIn .done true [3] 1 [1, 2, 3, 255] 2 3 6 3) ∧
    (sampleIn .done true [3] 1 [1, 2, 3, 255] 2 3 6 3).phase = .done :=
  ⟨sampleIn_inv (.inr (.inr rfl)) (by decide) (by decide) (by decide) (by decide) (by decide) (by decide) (by decide)
    (by decide) (by decide) (by decide), rfl⟩

/-- Its last clause: a session whose min-code-size byte was invalid. -/
theorem witness_ResultCoversEveryIndex_invalid :
    BlockInv { inPhase .done with mcsInvalid := true, faultInfo := 9, inp := [9], inPos := 1 } ∧
    ({ inPhase .done with mcsInvalid := true } : State).mcsInvalid = true := by
  refine ⟨⟨⟨?_, ?_, ?_⟩, ⟨?_, ?_, ?_, ?_⟩, ⟨?_, ?_, ?_, ?_⟩, ⟨?_, ?_, ?_, ?_, ?_⟩, .inl ⟨?_, ?_, ?_, ?_⟩⟩, rfl⟩ <;>
    simp [inPhase, State.reset]

theorem witness_StartCommand_CtwrCommand_CountRead : State.reset.phase = .idle ∧ fresh2.phase ≠ .idle ∧ (inPhase .done).phase = .done := by decide

theorem witness_CtsizeCommand : (State.reset.phase = .idle ∧ (256 : BitVec 9).toNat ≤ 256) ∧
    ¬ (State.reset.phase = .idle ∧ (257 : BitVec 9).toNat ≤ 256) ∧ ¬ (fresh2.phase = .idle ∧ (0 : BitVec 9).toNat ≤ 256) := by
  decide

theorem witness_PushCommand : State.reset.inClosed = false ∧ ({ State.reset with inClosed := true } : State).inClosed = true := by
  decide

theorem witness_CtrlBitsTogether :
    ({ State.reset with agenda := [.write 0 7] } : State).agenda = .write 0 7 :: [] ∧ (7 : Word).getLsbD 1 = true ∧
    (5 : Word).getLsbD 1 = false ∧ (0 : Word).getLsbD 1 = false := by decide

/-- `OtherAccessesIgnored`, at the edges of its ranges. -/
theorem witness_OtherAccessesIgnored :
    ({ State.reset with agenda := [.write 10 1] } : State).agenda = .write 10 1 :: [] ∧ (10 ∈ [1, 2, 5, 6, 8, 9, 10]) ∧
    (11 ≤ 11 ∧ 11 ≤ 255) ∧ (11 ≤ 255 ∧ 255 ≤ 255) ∧ 511 < 512 ∧
    ({ State.reset with agenda := [.read 4] } : State).agenda = .read 4 :: [] := by decide

/-- `CountRead` and `PixelRead`: the last pixel of two, and one beyond. -/
theorem witness_PixelRead :
    (inPhase .done).phase = .done ∧ (1 : Word).toNat < [0, 0, 0, 255, 9, 8, 7, (255 : Byte)].length / 4 ∧
    [0, 0, 0, 255, 9, 8, 7, (255 : Byte)][4 * (1 : Word).toNat + 3]? = some 255 ∧
    ¬ (2 : Word).toNat < [0, 0, 0, 255, 9, 8, 7, (255 : Byte)].length / 4 ∧ (inPhase .fault).phase ≠ .done := by decide

/-- `ColourTableRegister`: a written cell; a write of the last cell in `IDLE` and outside it. -/
theorem witness_ColourTableRegister :
    Memory.read ({ State.reset with ct := [(0, 0xFFFFFF)] } : State).ct (0 : Byte).toNat = some 0xFFFFFF ∧
    ({ State.reset with agenda := [.write 511 7] } : State).agenda = .write (256 + (255 : Byte).toNat) 7 :: [] ∧
    State.reset.phase = .idle ∧ fresh2.phase ≠ .idle := by decide

theorem witness_TerminalPhasesAreFinal : Terminal (inPhase .done) ∧ Terminal (inPhase .fault) ∧
    (∃ t, step (inPhase .done) = .next t) ∧ ¬ ResetDue (inPhase .done) :=
  ⟨.inl rfl, .inr rfl, next_of_isSome (by decide), not_resetDue rfl⟩

/-- `ColourTableFrozen`: the move due is a colour-table write outside `IDLE`. -/
theorem witness_ColourTableFrozen :
    ({ fresh2 with agenda := [.write 256 1] } : State).phase ≠ .idle ∧
    (∃ t, step { fresh2 with agenda := [.write 256 1] } = .next t) ∧ ¬ ResetDue { fresh2 with agenda := [.write 256 1] } := by
  refine ⟨by decide, next_of_isSome (by decide), ?_⟩
  rintro ⟨v, r, h, -⟩
  exact absurd h (by simp)

/-- `InputOnlyGrows`, `FaultsAndFlagsAreSticky`: a step that consumes; the input closed; a fault and a flag that are set. -/
theorem witness_InputOnlyGrows :
    (∃ t, step { fresh2 with inp := [2, 1, 4], inClosed := true } = .next t) ∧
    ¬ ResetDue { fresh2 with inp := [2, 1, 4], inClosed := true } ∧
    ({ fresh2 with inp := [2, 1, 4], inClosed := true } : State).inClosed = true :=
  ⟨next_of_isSome (by decide), not_resetDue rfl, rfl⟩

theorem witness_FaultsAndFlagsAreSticky :
    (∃ t, step { raise .colorIndexOutOfRange 1 fresh2 with eoiSeen := true } = .next t) ∧
    ¬ ResetDue { raise .colorIndexOutOfRange 1 fresh2 with eoiSeen := true } ∧
    ({ raise .colorIndexOutOfRange 1 fresh2 with eoiSeen := true } : State).fault ≠ .none ∧
    ({ raise .colorIndexOutOfRange 1 fresh2 with eoiSeen := true } : State).phase = .fault :=
  ⟨next_of_isSome (by decide), not_resetDue rfl, by decide, rfl⟩

/-- The first clause of `ConsumptionEndsWithLoop`: a code step with its bits buffered and a byte left over. -/
theorem witness_ConsumptionEndsWithLoop_lazy :
    (∃ t, step { fresh2 with inp := [2, 1], nbits := 3, acc := 1 } = .next t) ∧
    ¬ ResetDue { fresh2 with inp := [2, 1], nbits := 3, acc := 1 } ∧ fresh2.phase = .lzw ∧
    fresh2.codeSize.toNat ≤ (3 : BitVec 5).toNat :=
  ⟨next_of_isSome (by decide), not_resetDue rfl, rfl, by decide⟩

/-- `ConsumptionEndsWithLoop` and the second clause of `PhasesAreSequential`: a pixel step with bytes left over. -/
theorem witness_ConsumptionEndsWithLoop :
    (inPhase .composite).phase ≠ .header ∧ (inPhase .composite).phase ≠ .lzw ∧
    (∃ t, step { inPhase .composite with inp := [7], idx := [0], ctSize := 1 } = .next t) ∧
    ¬ ResetDue { inPhase .composite with inp := [7], idx := [0], ctSize := 1 } :=
  ⟨by decide, by decide, next_of_isSome (by decide), not_resetDue rfl⟩

/-- The first clause of `PhasesAreSequential`: a code step. -/
theorem witness_PhasesAreSequential : fresh2.phase ≠ .composite ∧
    (∃ t, step { fresh2 with nbits := 3, acc := 1 } = .next t) ∧ ¬ ResetDue { fresh2 with nbits := 3, acc := 1 } :=
  ⟨by decide, next_of_isSome (by decide), not_resetDue rfl⟩

theorem witness_FaultsArePrecise :
    EngineDue { fresh2 with nbits := 3, acc := 7 } { fresh2 with nbits := 3, acc := 7 } ∧ fresh2.phase ≠ .fault ∧
    (nextState (step { fresh2 with nbits := 3, acc := 7 })).map (·.phase) = some .fault :=
  ⟨.inl ⟨rfl, rfl⟩, by decide, by decide⟩

end Sys2Proof.Tests
end

section
/-! SUPPORT. The fetch, forwards: what it delivers in each phase that has an engine step, and what a byte of the stream or a host
access decodes to (30_encoding sections 2, 3 and 6). -/

namespace Sys2Proof.Machine

/-- A byte laid out on its own is the low byte of its word. -/
@[simp] theorem wordByte_setWidth (b : Byte) : wordByte (b.setWidth 32) 0 = b := by
  apply BitVec.eq_of_toNat_eq
  simpa [wordByte] using b.isLt

theorem fetch_header {s : State} {b : Byte} (hp : s.phase = .header) (hb : s.inp[s.inPos]? = some b) :
    fetch s = .instr (decodeMcs b) (advance s) := by
  simp only [fetch, hp]
  exact fetchByte_instr.2 ⟨b, hb, rfl, rfl⟩

theorem fetch_code {s : State} (hp : s.phase = .lzw) (hw : s.codeSize.toNat ≤ s.nbits.toNat) :
    fetch s = .instr (decodeCode (codeRegs s) (bufferedCode s)) (dropCode s) := by
  simp only [fetch, hp, if_pos hw]

theorem fetch_framing {s : State} {b : Byte} (hp : s.phase = .lzw) (hw : s.nbits.toNat < s.codeSize.toNat)
    (hb : s.inp[s.inPos]? = some b) : fetch s = .instr (framingFormat s b) (advance s) := by
  simp only [fetch, hp, if_neg (Nat.not_le_of_lt hw)]
  exact fetchByte_instr.2 ⟨b, hb, rfl, rfl⟩

theorem fetch_index {s : State} {k : Byte} (hp : s.phase = .composite) (hk : s.idx[s.compPos]? = some k) :
    fetch s = .instr (.lookup k) s := by
  simp only [fetch, hp, hk]

theorem fetch_finish {s : State} (hp : s.phase = .composite) (hl : s.compPos = s.idx.length) :
    fetch s = .instr .finish s := by
  have hk : s.idx[s.compPos]? = none := List.getElem?_eq_none hl.ge
  simp only [fetch, hp, hk, if_pos hl]

/-- When the engine's turn is due and its next element ends the step, the step is that element's meaning. -/
theorem step_single {s u t : State} {i : Instr} (hd : EngineDue s u) (hf : fetch u = .instr i t)
    (hc : continuesStep i = false) : step s = exec i t :=
  (step_engine hd).trans (engineTurn_single hf hc)

theorem step_write {s : State} {reg : Nat} {v : Word} {r : List Turn} (h : s.agenda = .write reg v :: r) :
    step s = hostWrite reg v { s with agenda := r } := by
  simp only [step, takeTurn, h]

theorem step_read {s : State} {reg : Nat} {r : List Turn} (h : s.agenda = .read reg :: r) :
    step s = hostRead reg { s with agenda := r } := by
  simp only [step, takeTurn, h]

theorem hostWrite_instr {reg : Nat} {v : Word} {i : Instr} (h : decodeWrite reg v = .instr i) (s : State) :
    hostWrite reg v s = exec i s := by
  simp only [hostWrite, h]

theorem hostRead_instr {reg : Nat} {i : Instr} (h : decodeRead reg = .instr i) (s : State) :
    hostRead reg s = exec i s := by
  simp only [hostRead, h]

/-- Settles O15: each move has its one element, which the fetch or the host access hands to `exec`. -/
theorem stepRunsDecodedInstruction : Obligations.StepRunsDecodedInstruction := by
  refine ⟨?header, ?code, ?index, ?finish, ?write, ?read⟩
  case header =>
    intro s u b i hd hp hb hi
    simp only [decode, wordByte_setWidth, Decoded.instr.injEq] at hi
    subst hi
    exact step_single hd (fetch_header hp hb) (continuesStep_decodeMcs b)
  case code =>
    intro s u i hd hp hw hi
    simp only [decode, Decoded.instr.injEq] at hi
    subst hi
    exact step_single hd (fetch_code hp hw) (continuesStep_decodeCode _ _)
  case index =>
    intro s u k i hd hp hk hi
    simp only [decode, wordByte_setWidth, Decoded.instr.injEq] at hi
    subst hi
    exact step_single hd (fetch_index hp hk) rfl
  case finish =>
    intro s u i hd hp hl hi
    simp only [decode, Decoded.instr.injEq] at hi
    subst hi
    exact step_single hd (fetch_finish hp hl) rfl
  case write =>
    intro s reg v r i ha hi
    exact (step_write ha).trans (hostWrite_instr hi _)
  case read =>
    intro s reg r i ha hi
    exact (step_read ha).trans (hostRead_instr hi _)

end Sys2Proof.Machine
end

section
/-! SUPPORT. A push commutes with everything the engine does (00_scope R12): no engine operation reads `IN` beyond the cursor or
writes it. -/

namespace Sys2Proof.Machine

/-- The instructions the engine meets at its cursor: elements of the stream, the pixel step and the finishing step. The others
are host accesses. -/
def isElement : Instr → Bool
  | .mcs _ | .mcsInvalid _ | .term | .blklen _ | .data _ | .entry _ | .kwkwk _ | .nopred _ | .beyond _ | .clear | .endOfInfo
  | .root _ | .lookup _ | .finish => true
  | .reset | .start _ | .close | .ctsize _ | .ctwr _ _ _ _ | .push _ | .setaddr _ | .rdstatus | .rdinfo | .rdctsize | .rdpos
  | .rdcount | .rdaddr | .rdlzw | .rdprev | .rdct _ | .rdpix => false

theorem isElement_decodeMcs (b : Byte) : isElement (decodeMcs b) = true := by
  unfold decodeMcs
  split <;> rfl

theorem isElement_decodeCode (r : CodeRegs) (c : Code) : isElement (decodeCode r c) = true := by
  unfold decodeCode
  repeat' split
  all_goals rfl

theorem isElement_framingFormat (s : State) (b : Byte) : isElement (framingFormat s b) = true := by
  rcases framingFormat_cases s b with ⟨e, -⟩ | ⟨e, -⟩ | ⟨e, -⟩ <;> rw [e] <;> rfl

theorem isElement_of_fetch {s t : State} {i : Instr} (h : fetch s = .instr i t) : isElement i = true := by
  rcases fetch_instr h with ⟨-, b, -, rfl, -⟩ | ⟨-, -, rfl, -⟩ | ⟨-, -, b, -, rfl, -⟩ | ⟨-, k, -, rfl, -⟩ | ⟨-, -, rfl, -⟩
  · exact isElement_decodeMcs b
  · exact isElement_decodeCode _ _
  · exact isElement_framingFormat s b
  · rfl
  · rfl

/-! ## The operations of a code step -/

theorem dictAppend_appendInput (b : Byte) (p : Str) (s : State) :
    dictAppend p (appendInput b s) = appendInput b (dictAppend p s) := by
  rcases dictAppend_cases p s with ⟨h, e⟩ | ⟨h, e⟩ <;> rw [e]
  · exact if_pos h
  · exact if_neg (Nat.not_lt_of_le h)

theorem widthCheck_appendInput (b : Byte) (s : State) : widthCheck (appendInput b s) = appendInput b (widthCheck s) := by
  rcases widthCheck_cases s with ⟨h, e⟩ | ⟨h, e⟩ <;> rw [e]
  · exact if_pos h
  · exact if_neg h

theorem endDataCode_appendInput (b : Byte) (c : Code) (s : State) :
    endDataCode c (appendInput b s) = appendInput b (endDataCode c s) :=
  widthCheck_appendInput b { s with prevCode := c, lzwState := .decoding }

theorem existingCode_appendInput (b : Byte) {c : Code} {s t : State} (h : existingCode c s = .next t) :
    existingCode c (appendInput b s) = .next (appendInput b t) := by
  obtain ⟨p, hc, ⟨hn, rfl⟩ | ⟨hy, q, hq, rfl⟩⟩ := existingCode_next.1 h
  · exact existingCode_next.2 ⟨p, hc, .inl ⟨hn, (endDataCode_appendInput b c _).symm⟩⟩
  · refine existingCode_next.2 ⟨p, hc, .inr ⟨hy, q, hq, ?_⟩⟩
    rw [← endDataCode_appendInput, ← dictAppend_appendInput]
    rfl

theorem nextIndexCode_appendInput (b : Byte) {c : Code} {s t : State} (h : nextIndexCode c s = .next t) :
    nextIndexCode c (appendInput b s) = .next (appendInput b t) := by
  obtain ⟨q, hq, rfl⟩ := nextIndexCode_next.1 h
  refine nextIndexCode_next.2 ⟨q, hq, ?_⟩
  rw [← endDataCode_appendInput, ← dictAppend_appendInput]
  rfl

theorem execClear_appendInput (b : Byte) {s t : State} (h : execClear s = .next t) :
    execClear (appendInput b s) = .next (appendInput b t) := by
  simp only [execClear, Host.Outcome.next.injEq] at h ⊢
  rw [← h, ← widthCheck_appendInput]
  rfl

theorem execLookup_appendInput (b : Byte) {k : Byte} {s t : State} (h : execLookup k s = .next t) :
    execLookup k (appendInput b s) = .next (appendInput b t) := by
  rcases execLookup_effect h with ⟨hk, rfl⟩ | ⟨hk, rfl⟩
  · exact if_pos hk
  · exact if_neg (Nat.not_le_of_lt hk)

/-! ## The elements and the step -/

/-- The meaning of every element commutes with a push. (Of the host's commands, RESET and PUSH do not.) -/
theorem exec_appendInput (b : Byte) {i : Instr} {s t : State} (hi : isElement i = true) (h : exec i s = .next t) :
    exec i (appendInput b s) = .next (appendInput b t) := by
  cases i with
  | mcs | mcsInvalid | term | blklen | data | endOfInfo | nopred | beyond | finish => cases h; rfl
  | entry | root => exact existingCode_appendInput b h
  | kwkwk => exact nextIndexCode_appendInput b h
  | clear => exact execClear_appendInput b h
  | lookup => exact execLookup_appendInput b h
  | _ => cases hi

/-- What lies at the cursor stays there when a byte is pushed behind it. -/
theorem appendInput_cursor (b : Byte) {s : State} {x : Byte} (h : s.inp[s.inPos]? = some x) :
    (appendInput b s).inp[(appendInput b s).inPos]? = some x := by
  obtain ⟨hlt, -⟩ := List.getElem?_eq_some_iff.1 h
  rw [appendInput_inp, appendInput_inPos, List.getElem?_append_left hlt, h]

/-- The element fetched is the same with one more byte behind it. -/
theorem fetch_appendInput (b : Byte) {i : Instr} {s t : State} (h : fetch s = .instr i t) :
    fetch (appendInput b s) = .instr i (appendInput b t) := by
  rcases fetch_instr h with ⟨hp, x, hx, rfl, rfl⟩ | ⟨hp, hw, rfl, rfl⟩ | ⟨hp, hw, x, hx, rfl, rfl⟩ | ⟨hp, k, hk, rfl, rfl⟩ |
    ⟨hp, hl, rfl, rfl⟩
  · exact fetch_header hp (appendInput_cursor b hx)
  · exact fetch_code hp hw
  · exact fetch_framing hp hw (appendInput_cursor b hx)
  · exact fetch_index hp hk
  · exact fetch_finish hp hl

theorem fetch_inClosed {i : Instr} {s t : State} (h : fetch s = .instr i t) : t.inClosed = s.inClosed := by
  rcases fetch_instr h with ⟨-, b, -, -, rfl⟩ | ⟨-, -, -, rfl⟩ | ⟨-, -, b, -, -, rfl⟩ | ⟨-, k, -, -, rfl⟩ | ⟨-, -, -, rfl⟩ <;> rfl

theorem exec_inClosed_of_continuesStep {i : Instr} {s t : State} (hc : continuesStep i = true) (h : exec i s = .next t) :
    t.inClosed = s.inClosed := by
  cases i with
  | blklen | data => cases h; rfl
  | _ => cases hc

/-- An element that answers a next state, forwards: the step goes on from there or ends there. -/
theorem engineElements_instr {n : Nat} {i : Instr} {s t v : State} (hf : fetch s = .instr i t) (he : exec i t = .next v) :
    engineElements (n + 1) s = if continuesStep i then engineElements n v else some (.next v) := by
  simp only [engineElements, hf, he]

/-- By induction over the elements: with the input open none of them is the end of the input, and each commutes with the push. -/
theorem engineElements_appendInput (b : Byte) :
    ∀ (n : Nat) {s t : State}, s.inClosed = false → engineElements n s = some (.next t) →
      engineElements n (appendInput b s) = some (.next (appendInput b t))
  | 0, _, _, _, h => by simp [engineElements] at h
  | n + 1, s, t, ho, h => by
    rcases engineElements_next h with ⟨hf, -⟩ | ⟨i, u, v, hf, he, hv⟩
    · exact absurd (fetch_eos hf).2.2 (by simp [ho])
    have hstep := engineElements_instr (n := n) (fetch_appendInput b hf) (exec_appendInput b (isElement_of_fetch hf) he)
    rcases hv with ⟨hc, hr⟩ | ⟨hc, rfl⟩
    · have hov : v.inClosed = false := by rw [exec_inClosed_of_continuesStep hc he, fetch_inClosed hf, ho]
      rw [hstep, if_pos hc, engineElements_appendInput b n hov hr]
    · simp [hstep, hc]

/-- Settles O20: the step is a run of elements, each of which commutes with the push. -/
theorem pushCommutesWithEngineStep : Obligations.PushCommutesWithEngineStep := by
  intro s t b ho h
  exact engineElements_appendInput b maxElements ho h

end Sys2Proof.Machine
end

section
/-! SUPPORT. The words the host reads and the accesses that do nothing (10_state R40 to R53, R57): a word is the sum of its
fields. -/

namespace Sys2Proof.Machine

/-- Two fields of a word that do not overlap add up. -/
theorem toNat_or_shiftLeft {n k : Nat} {a b : BitVec n} (ha : a.toNat < 2 ^ k) (hb : b.toNat * 2 ^ k < 2 ^ n) :
    (a ||| b <<< k).toNat = a.toNat + b.toNat * 2 ^ k := by
  rw [BitVec.toNat_or, BitVec.toNat_shiftLeft, Nat.shiftLeft_eq, Nat.mod_eq_of_lt hb, Nat.or_comm, Nat.mul_comm,
    ← Nat.two_pow_add_eq_or_of_lt ha, Nat.add_comm]

@[simp] theorem flagBit_toNat (b : Bool) : (flagBit b).toNat = b.toNat := by
  cases b <;> rfl

/-- `STATUS` as a number (R40). -/
theorem statusWord_toNat (s : State) :
    (statusWord s).toNat = (phaseNumber s.phase).toNat + 8 * (lzwStateNumber s.lzwState).toNat +
      32 * (faultNumber s.fault).toNat + 256 * s.eoiSeen.toNat + 512 * s.softEnd.toNat + 1024 * s.mcsInvalid.toNat +
      2048 * s.inClosed.toNat := by
  have hp : (phaseNumber s.phase).toNat < 8 := by cases s.phase <;> decide
  have hl : (lzwStateNumber s.lzwState).toNat < 4 := by cases s.lzwState <;> decide
  have hf : (faultNumber s.fault).toNat < 4 := by cases s.fault <;> decide
  have h8 := flagBit_toNat s.eoiSeen
  have h9 := flagBit_toNat s.softEnd
  have h10 := flagBit_toNat s.mcsInvalid
  have h11 := flagBit_toNat s.inClosed
  have b8 := s.eoiSeen.toNat_lt
  have b9 := s.softEnd.toNat_lt
  have b10 := s.mcsInvalid.toNat_lt
  have b11 := s.inClosed.toNat_lt
  unfold statusWord
  have e3 := toNat_or_shiftLeft (k := 3) hp (b := lzwStateNumber s.lzwState) (by omega)
  have e5 := toNat_or_shiftLeft (k := 5) (e3.trans_lt (by omega)) (b := faultNumber s.fault) (by omega)
  have e8 := toNat_or_shiftLeft (k := 8) (e5.trans_lt (by omega)) (b := flagBit s.eoiSeen) (by omega)
  have e9 := toNat_or_shiftLeft (k := 9) (e8.trans_lt (by omega)) (b := flagBit s.softEnd) (by omega)
  have e10 := toNat_or_shiftLeft (k := 10) (e9.trans_lt (by omega)) (b := flagBit s.mcsInvalid) (by omega)
  have e11 := toNat_or_shiftLeft (k := 11) (e10.trans_lt (by omega)) (b := flagBit s.inClosed) (by omega)
  omega

/-- Settles O48: the fields of `STATUS` do not overlap. -/
theorem statusRead : Obligations.StatusRead := by
  intro s
  refine ⟨statusWord s, (phaseNumber s.phase).toNat, (lzwStateNumber s.lzwState).toNat, (faultNumber s.fault).toNat,
    rfl, statusWord_toNat s, ?_⟩
  repeat' apply And.intro
  all_goals
    intro h
    rw [h]
    rfl

/-- `LZW_INFO` as a number (R50). -/
theorem lzwInfoWord_toNat (s : State) :
    (lzwInfoWord s).toNat = s.codeSize.toNat + 16 * s.mcs.toNat + 256 * s.dictSize.toNat := by
  have hw : (s.codeSize.setWidth 32).toNat = s.codeSize.toNat := BitVec.toNat_setWidth_of_le (by decide)
  have hm : (s.mcs.setWidth 32).toNat = s.mcs.toNat := BitVec.toNat_setWidth_of_le (by decide)
  have hd : (s.dictSize.setWidth 32).toNat = s.dictSize.toNat := BitVec.toNat_setWidth_of_le (by decide)
  have bw := s.codeSize.isLt
  have bm := s.mcs.isLt
  have bd := s.dictSize.isLt
  unfold lzwInfoWord
  have e4 := toNat_or_shiftLeft (k := 4) (hw.trans_lt bw) (b := s.mcs.setWidth 32) (by omega)
  have e8 := toNat_or_shiftLeft (k := 8) (e4.trans_lt (by omega)) (b := s.dictSize.setWidth 32) (by omega)
  omega

/-- Settles O49: each read returns its register's word. -/
theorem registerReads : Obligations.RegisterReads := by
  intro s
  refine ⟨⟨infoWord s, rfl, ?_⟩, ⟨ctSizeWord s, rfl, ?_⟩, ⟨posWord s, rfl, ?_⟩, rfl, ⟨lzwInfoWord s, rfl, lzwInfoWord_toNat s⟩,
    ⟨lzwPrevWord s, rfl, ?_⟩⟩
  · exact BitVec.toNat_setWidth_of_le (by decide)
  · exact BitVec.toNat_setWidth_of_le (by decide)
  · exact BitVec.toNat_ofNat _ _
  · exact BitVec.toNat_setWidth_of_le (by decide)

/-! ## The colour table's registers (R52) -/

theorem ctColour_of_read {s : State} {i : Byte} {c : Rgb} (h : Memory.read s.ct i.toNat = some c) : ctColour s i = c := by
  simp only [ctColour, h]

theorem ctWord_toNat (s : State) (i : Byte) : (ctWord s i).toNat = (ctColour s i).toNat :=
  BitVec.toNat_setWidth_of_le (by decide)

theorem decodeWrite_ctwr (i : Byte) (v : Word) :
    decodeWrite (256 + i.toNat) v = .instr (.ctwr i (wordByte v 0) (wordByte v 8) (wordByte v 16)) := by
  have hi := i.isLt
  unfold decodeWrite
  rw [if_neg (by omega), if_neg (by omega), if_neg (by omega), if_neg (by omega), if_pos (by omega)]
  simp

theorem packRgb_toNat (r g b : Byte) : (packRgb r g b).toNat = r.toNat + 256 * g.toNat + 65536 * b.toNat := by
  have ext : ∀ x : Byte, (x.setWidth 24).toNat = x.toNat := fun x => BitVec.toNat_setWidth_of_le (by decide)
  have hr := ext r
  have hg := ext g
  have hb := ext b
  unfold packRgb
  have e8 := toNat_or_shiftLeft (k := 8) (hr.trans_lt r.isLt) (b := g.setWidth 24) (by omega)
  have e16 := toNat_or_shiftLeft (k := 16) (e8.trans_lt (by omega)) (b := b.setWidth 24) (by omega)
  omega

theorem wordByte_toNat (v : Word) (lo : Nat) : (wordByte v lo).toNat = v.toNat / 2 ^ lo % 256 := by
  rw [wordByte, BitVec.extractLsb'_toNat, Nat.shiftRight_eq_div_pow]

/-- The colour packed from the three low bytes of a word is bits 23:0 of it. -/
theorem packRgb_wordBytes (v : Word) : (packRgb (wordByte v 0) (wordByte v 8) (wordByte v 16)).toNat = v.toNat % 2 ^ 24 := by
  rw [packRgb_toNat, wordByte_toNat, wordByte_toNat, wordByte_toNat]
  omega

/-- Settles O50: the read returns the colour zero-extended, the write decodes to `CTWR` of the word's three low bytes. -/
theorem colourTableRegister : Obligations.ColourTableRegister := by
  refine ⟨fun i s => ⟨ctWord s i, rfl, (ctWord_toNat s i).trans_lt (ctColour s i).isLt, fun c hc => ?_⟩,
    fun s i v r ha => ?_⟩
  · rw [ctWord_toNat, ctColour_of_read hc]
  have hstep : step s = execCtwr i (wordByte v 0) (wordByte v 8) (wordByte v 16) { s with agenda := r } :=
    (step_write ha).trans (hostWrite_instr (decodeWrite_ctwr i v) _)
  rw [hstep]
  constructor
  · intro hp
    exact ⟨_, if_pos hp, rfl, ⟨_, Memory.read_write_self _ _ _, packRgb_wordBytes v⟩, fun a => Memory.read_write_other _ _⟩
  · intro hp
    exact if_neg hp

/-! ## The result's registers (R47, R49) -/

/-- Settles O51: the count is gated by `DONE`. -/
theorem countRead : Obligations.CountRead := by
  intro s
  refine ⟨countWord s, rfl, fun hp => ?_, fun hp => if_neg hp⟩
  rw [countWord, if_pos hp, BitVec.toNat_ofNat]

/-- A byte below the bytes of a word. -/
theorem wordOfBytes_cons_toNat (b : Byte) {bs : List Byte} (h : (wordOfBytes bs).toNat < 2 ^ 24) :
    (wordOfBytes (b :: bs)).toNat = b.toNat + 256 * (wordOfBytes bs).toNat := by
  have hb : (b.setWidth 32).toNat = b.toNat := BitVec.toNat_setWidth_of_le (by decide)
  have e8 := toNat_or_shiftLeft (k := 8) (hb.trans_lt b.isLt) (b := wordOfBytes bs) (by omega)
  rw [wordOfBytes]
  omega

/-- Four bytes as a word, the first lowest. -/
theorem wordOfBytes_toNat (r g b a : Byte) :
    (wordOfBytes [r, g, b, a]).toNat = r.toNat + 256 * g.toNat + 65536 * b.toNat + 16777216 * a.toNat := by
  have h0 : (wordOfBytes []).toNat = 0 := rfl
  have h1 := wordOfBytes_cons_toNat a (bs := []) (by omega)
  have h2 := wordOfBytes_cons_toNat b (bs := [a]) (by omega)
  have h3 := wordOfBytes_cons_toNat g (bs := [b, a]) (by omega)
  have h4 := wordOfBytes_cons_toNat r (bs := [g, b, a]) (by omega)
  omega

/-- Settles O52: within the result the word is the pixel's four bytes. -/
theorem pixelRead : Obligations.PixelRead := by
  intro s
  refine ⟨dataWord s, rfl, fun r g b a hp hk hr hg hb ha => ?_, fun h => if_neg h⟩
  rw [dataWord, if_pos ⟨hp, hk⟩, pixelWord]
  simp only [List.getD_eq_getElem?_getD, hr, hg, hb, ha, Option.getD_some]
  exact wordOfBytes_toNat r g b a

/-! ## Accesses that do nothing (R53), and reset (R57) -/

/-- A write to a read-only or a reserved register encodes no command. -/
theorem decodeWrite_rejected {reg : Nat} {v : Word}
    (h : reg ∈ [1, 2, 5, 6, 8, 9, 10] ∨ (11 ≤ reg ∧ reg ≤ 255) ∨ 511 < reg) : ∃ w, decodeWrite reg v = .rejected w := by
  simp only [List.mem_cons, List.not_mem_nil, or_false] at h
  unfold decodeWrite
  rw [if_neg (by omega), if_neg (by omega), if_neg (by omega), if_neg (by omega), if_neg (by omega)]
  split <;> exact ⟨_, rfl⟩

/-- A read of a write-only or a reserved register is no row of the table. -/
theorem decodeRead_rejected {reg : Nat} (h : reg = 0 ∨ reg = 4 ∨ (11 ≤ reg ∧ reg ≤ 255) ∨ 511 < reg) :
    ∃ w, decodeRead reg = .rejected w := by
  unfold decodeRead
  iterate 10 rw [if_neg (by omega)]
  split <;> exact ⟨_, rfl⟩

/-- Settles O47: such an access decodes to no command. -/
theorem otherAccessesIgnored : Obligations.OtherAccessesIgnored := by
  constructor
  · intro s reg v r ha hreg
    obtain ⟨w, hd⟩ := decodeWrite_rejected (v := v) hreg
    rw [step_write ha, hostWrite, hd]
  · intro s reg r ha hreg
    obtain ⟨w, hd⟩ := decodeRead_rejected hreg
    rw [step_read ha, hostRead, hd]
    rfl

/-- Settles O6: reset lists no cell, and every other item is the value R57 gives. -/
theorem resetValues : Obligations.ResetValues :=
  ⟨rfl, rfl, rfl, rfl, rfl, rfl, rfl, rfl, rfl, rfl, rfl, rfl, rfl, rfl, rfl, rfl, rfl, rfl, rfl, rfl, rfl, rfl, rfl,
    Memory.read_nil, rfl⟩

end Sys2Proof.Machine
end

section
/-! SUPPORT. The induction over a step's moves, and what a step leaves of the input and of the raster: an element of a step reads
the input and never writes it, and only a pixel step writes the raster. -/

namespace Sys2Proof.Machine

/-! ## Induction over the moves of a step -/

theorem engineDue_frame {s u : State} (h : EngineDue s u) : ∃ r, u = { s with agenda := r } := by
  rcases h with ⟨-, rfl⟩ | ⟨r, -, rfl⟩
  · exact ⟨u.agenda, rfl⟩
  · exact ⟨r, rfl⟩

/-- A transitive relation that holds across everything a step that is no RESET is made of (the turn taken off the agenda, the end
of the input, an element, a host write, a host read) holds across the step. -/
theorem step_induction {R : State → State → Prop} (htrans : ∀ a b c, R a b → R b c → R a c)
    (hagenda : ∀ s r, R s { s with agenda := r })
    (heos : ∀ s, fetch s = .eos → R s (raise .unexpectedEndOfStream 0 s))
    (helem : ∀ s i t v, fetch s = .instr i t → exec i t = .next v → R s v)
    (hwrite : ∀ s reg v t, ¬ (reg = 0 ∧ v.getLsbD 1 = true) → hostWrite reg v s = .next t → R s t)
    (hread : ∀ s w, R s { s with rdata := w }) {s t : State} (h : step s = .next t) (hr : ¬ ResetDue s) : R s t := by
  rcases step_next h with ⟨u, hd, hu⟩ | ⟨reg, v, r, ha, hw⟩ | ⟨reg, r, -, hrd⟩
  · obtain ⟨r, rfl⟩ := engineDue_frame hd
    rcases engineTurn_next.1 hu with hs | ⟨-, rfl⟩
    · exact htrans _ _ _ (hagenda s r) (engineElements_induction htrans heos helem _ _ _ hs)
    · exact hagenda s r
  · refine htrans _ _ _ (hagenda s r) (hwrite _ reg v t ?_ hw)
    rintro ⟨rfl, hv⟩
    exact hr ⟨v, r, ha, hv⟩
  · rw [hostRead_effect hrd]
    exact htrans _ _ _ (hagenda s r) (hread _ _)

/-! ## The input (R21, R22) -/

/-- The meaning of an element leaves the input alone, and adds at most one whole pixel to the raster. -/
theorem exec_element_frame {i : Instr} {s t : State} (hi : isElement i = true) (h : exec i s = .next t) :
    t.inp = s.inp ∧ t.inClosed = s.inClosed ∧ t.inPos = s.inPos ∧ (t.out = s.out ∨ ∃ c, t.out = s.out ++ pixelBytes c) := by
  cases i with
  | mcs | mcsInvalid | term | blklen | data | endOfInfo | nopred | beyond | finish => cases h; exact ⟨rfl, rfl, rfl, .inl rfl⟩
  | entry | root => rw [existingCode_frame h]; exact ⟨rfl, rfl, rfl, .inl rfl⟩
  | kwkwk => rw [nextIndexCode_frame h]; exact ⟨rfl, rfl, rfl, .inl rfl⟩
  | clear => cases h; simp
  | lookup k =>
    rcases execLookup_effect h with ⟨-, rfl⟩ | ⟨-, rfl⟩
    · exact ⟨rfl, rfl, rfl, .inl rfl⟩
    · exact ⟨rfl, rfl, rfl, .inr ⟨_, rfl⟩⟩
  | _ => cases hi

/-- The fetch moves the cursor forwards, and neither the input nor the raster changes. -/
theorem fetch_frame {i : Instr} {s t : State} (h : fetch s = .instr i t) :
    t.inp = s.inp ∧ t.inClosed = s.inClosed ∧ s.inPos ≤ t.inPos ∧ t.out = s.out := by
  rcases fetch_instr h with ⟨-, b, -, -, rfl⟩ | ⟨-, -, -, rfl⟩ | ⟨-, -, b, -, -, rfl⟩ | ⟨-, k, -, -, rfl⟩ | ⟨-, -, -, rfl⟩ <;>
    simp

/-- An element of a step: its fetch and its meaning together. -/
theorem element_frame {i : Instr} {s t v : State} (hf : fetch s = .instr i t) (he : exec i t = .next v) :
    v.inp = s.inp ∧ v.inClosed = s.inClosed ∧ s.inPos ≤ v.inPos ∧ (v.out = s.out ∨ ∃ c, v.out = s.out ++ pixelBytes c) := by
  obtain ⟨hin, hcl, hpos, hout⟩ := fetch_frame hf
  obtain ⟨hin', hcl', hpos', hout'⟩ := exec_element_frame (isElement_of_fetch hf) he
  rw [hin', hcl', hpos', ← hin, ← hcl, ← hout]
  exact ⟨rfl, rfl, hpos, hout'⟩

/-- `IN` and `IN_POS` of `t` have grown from those of `s`, and a closed input is as it was. -/
def InputGrown (s t : State) : Prop :=
  s.inp <+: t.inp ∧ s.inPos ≤ t.inPos ∧ (s.inClosed = true → t.inp = s.inp ∧ t.inClosed = true)

theorem inputGrown_trans (a b c : State) : InputGrown a b → InputGrown b c → InputGrown a c := by
  rintro ⟨hp, hq, hc⟩ ⟨hp', hq', hc'⟩
  refine ⟨hp.trans hp', hq.trans hq', fun h => ?_⟩
  obtain ⟨e, hb⟩ := hc h
  exact ⟨(hc' hb).1.trans e, (hc' hb).2⟩

/-- What leaves the bytes and the closed mark alone, and moves the cursor forwards only. -/
theorem inputGrown_of_eq {s t : State} (hi : t.inp = s.inp) (hc : s.inClosed = true → t.inClosed = true)
    (hp : s.inPos ≤ t.inPos) : InputGrown s t :=
  ⟨⟨[], by rw [hi, List.append_nil]⟩, hp, fun h => ⟨hi, hc h⟩⟩

theorem hostWrite_inputGrown {s t : State} {reg : Nat} {v : Word} (hr : ¬ (reg = 0 ∧ v.getLsbD 1 = true))
    (h : hostWrite reg v s = .next t) : InputGrown s t := by
  rcases hostWrite_effect h hr with ⟨e, hc, -⟩ | ⟨-, n, rfl⟩ | ⟨-, i, c, rfl⟩ | ⟨ho, b, rfl⟩ | ⟨k, rfl⟩
  · exact inputGrown_of_eq (by rw [e]) hc (by rw [e])
  · exact inputGrown_of_eq rfl id le_rfl
  · exact inputGrown_of_eq rfl id le_rfl
  · exact ⟨⟨[b], rfl⟩, le_rfl, fun hc => absurd hc (by simp [ho])⟩
  · exact inputGrown_of_eq rfl id le_rfl

/-- Settles O55, by induction over the moves of the step: an element moves the cursor forwards, and of the host's writes only a
push, which a closed input ignores, changes `IN`. -/
theorem inputOnlyGrows : Obligations.InputOnlyGrows := by
  intro s t h hr
  refine step_induction (R := InputGrown) inputGrown_trans ?agenda ?eos ?elem ?write ?read h hr
  case agenda => exact fun s r => inputGrown_of_eq rfl id le_rfl
  case eos => exact fun s _ => inputGrown_of_eq rfl id le_rfl
  case elem =>
    intro s i t v hf he
    obtain ⟨hin, hcl, hpos, -⟩ := element_frame hf he
    exact inputGrown_of_eq hin (fun h => hcl.trans h) hpos
  case write => exact fun s reg v t hr hw => hostWrite_inputGrown hr hw
  case read => exact fun s w => inputGrown_of_eq rfl id le_rfl

/-! ## The raster (R39, R194) -/

/-- A whole pixel of alpha 255 behind whole opaque pixels. -/
theorem opaquePixels_append {s t : State} {c : Rgb} (h : OpaquePixels s) (e : t.out = s.out ++ pixelBytes c) :
    OpaquePixels t := by
  have hw := h.whole
  have hl : t.out.length = s.out.length + 4 := by rw [e, List.length_append]; rfl
  refine ⟨by omega, fun k hk => ?_⟩
  rw [e]
  by_cases hlt : 4 * k + 3 < s.out.length
  · rw [List.getElem?_append_left hlt]
    exact h.alpha k hlt
  · have hlast : 4 * k + 3 = s.out.length + 3 := by omega
    rw [hlast, List.getElem?_append_right (by omega), Nat.add_sub_cancel_left]
    rfl

theorem opaquePixels_of_eq {s t : State} (h : OpaquePixels s) (e : t.out = s.out) : OpaquePixels t :=
  ⟨e ▸ h.whole, e ▸ h.alpha⟩

theorem hostWrite_out {s t : State} {reg : Nat} {v : Word} (hr : ¬ (reg = 0 ∧ v.getLsbD 1 = true))
    (h : hostWrite reg v s = .next t) : t.out = s.out := by
  rcases hostWrite_effect h hr with ⟨e, -⟩ | ⟨-, n, rfl⟩ | ⟨-, i, c, rfl⟩ | ⟨-, b, rfl⟩ | ⟨k, rfl⟩
  · rw [e]
  all_goals rfl

/-- RESET dominates in a `CTRL` word (40_host_commands R130). -/
theorem decodeWrite_reset {v : Word} (h : v.getLsbD 1 = true) : decodeWrite 0 v = .instr .reset := by
  rw [decodeWrite, if_pos rfl, if_pos h]

/-- A RESET that is due is the step. -/
theorem step_resetDue {s : State} (h : ResetDue s) : ∃ r, step s = .next (resetBlock { s with agenda := r }) := by
  obtain ⟨v, r, ha, hv⟩ := h
  exact ⟨r, (step_write ha).trans (hostWrite_instr (decodeWrite_reset hv) _)⟩

/-- Settles O11: RESET empties the raster; of the other moves only a pixel step changes it, and that adds one whole pixel. -/
theorem pixelsStayOpaque : Obligations.PixelsStayOpaque := by
  intro s t ho h
  by_cases hr : ResetDue s
  · obtain ⟨r, hs⟩ := step_resetDue hr
    cases hs.symm.trans h
    exact ⟨rfl, fun k hk => absurd hk (Nat.not_lt_zero _)⟩
  refine step_induction (R := fun s t => OpaquePixels s → OpaquePixels t) ?trans ?agenda ?eos ?elem ?write ?read h hr ho
  case trans => exact fun a b c hab hbc ha => hbc (hab ha)
  case agenda => exact fun s r ho => opaquePixels_of_eq ho rfl
  case eos => exact fun s _ ho => opaquePixels_of_eq ho rfl
  case elem =>
    intro s i t v hf he ho
    obtain ⟨-, -, -, e | ⟨c, e⟩⟩ := element_frame hf he
    · exact opaquePixels_of_eq ho e
    · exact opaquePixels_append ho e
  case write => exact fun s reg v t hr hw ho => opaquePixels_of_eq ho (hostWrite_out hr hw)
  case read => exact fun s w ho => opaquePixels_of_eq ho rfl

end Sys2Proof.Machine
end

section
/-! SUPPORT. The invariant of a session (10_state R54 items 1 to 7 and 9) under what a code does to the dictionary, the width and
`IDX`. -/

namespace Sys2Proof.Machine

/-- The registers' part of the invariant reads these registers alone. -/
theorem regsInv_frame {s t : State} (h : RegsInv s)
    (ht : t = { t with
      mcs := s.mcs, clearCode := s.clearCode, endCode := s.endCode, codeSize := s.codeSize, dictSize := s.dictSize }) :
    RegsInv t := by
  rw [ht]
  obtain ⟨hm, hc, he, hw, hs, hle, hfull, hge⟩ := h
  exact ⟨hm, hc, he, hw, hs, hle, hfull, hge⟩

/-- The session's part reads these items and the phase alone. -/
theorem sessionInv_frame {s t : State} (h : SessionInv s) (hp : t.phase ≠ .idle ∧ t.phase ≠ .header)
    (ht : t = { t with
      mcs := s.mcs, clearCode := s.clearCode, endCode := s.endCode, codeSize := s.codeSize, dict := s.dict,
      dictSize := s.dictSize, prevCode := s.prevCode, idx := s.idx }) : SessionInv t := by
  rw [ht]
  obtain ⟨hr, ⟨hroots, hentries, hcells⟩, hprev, hfresh, hidx, -⟩ := h
  exact ⟨regsInv_frame hr rfl, ⟨hroots, hentries, hcells⟩, hprev, hfresh, hidx, hp⟩

theorem clearCode_range {s : State} (h : RegsInv s) : 4 ≤ s.clearCode.toNat ∧ s.clearCode.toNat ≤ 256 := by
  rw [h.clear_eq]
  exact ⟨Nat.pow_le_pow_right (n := 2) (by decide) h.mcs_range.1, Nat.pow_le_pow_right (n := 2) (by decide) h.mcs_range.2⟩

/-! ## A dictionary that has just been reset (42_lzw_codes R161, R173) -/

theorem dictInv_rootCells {s : State} (hd : s.dict = rootCells s.clearCode.toNat)
    (hs : s.dictSize.toNat = s.clearCode.toNat + 2) (he : s.endCode.toNat = s.clearCode.toNat + 1)
    (hc : s.clearCode.toNat ≤ 256) : DictInv s := by
  have root : ∀ c : Code, c.toNat < s.clearCode.toNat → dictRead s c = some { first := c.setWidth 8, rest := [] } := by
    intro c hlt
    refine dictRead_some.2 ⟨isDataEntry_iff.2 (by omega), ?_⟩
    rw [hd]
    exact read_rootCells hlt
  refine ⟨root, fun c hce => ?_, fun e hme => ?_⟩
  · have hlt : c.toNat < s.clearCode.toNat := by have := isDataEntry_iff.1 hce; omega
    refine ⟨_, root c hlt, ?_, ?_⟩
    · simp only [Str.toList, List.mem_singleton, forall_eq, BitVec.toNat_setWidth]
      omega
    · simp only [Str.toList, List.length_singleton]
      omega
  · rw [hd] at hme
    have := rootCells_cells hme
    omega

/-- The registers and the dictionary as the header step and `CLEAR` leave them. -/
structure DictFresh (s : State) : Prop where
  mcs_range : 2 ≤ s.mcs.toNat ∧ s.mcs.toNat ≤ 8
  clear_eq  : s.clearCode.toNat = 2 ^ s.mcs.toNat
  end_eq    : s.endCode.toNat = s.clearCode.toNat + 1
  width_eq  : s.codeSize.toNat = s.mcs.toNat + 1
  size_eq   : s.dictSize.toNat = s.clearCode.toNat + 2
  prev_eq   : s.prevCode.toNat = s.clearCode.toNat
  dict_eq   : s.dict = rootCells s.clearCode.toNat

theorem dictFresh_regs {s : State} (h : DictFresh s) : RegsInv s := by
  obtain ⟨hm, hc, he, hw, hs, -, -⟩ := h
  have h4 : 2 ^ 2 ≤ 2 ^ s.mcs.toNat := Nat.pow_le_pow_right (by decide) hm.1
  have h256 : 2 ^ s.mcs.toNat ≤ 2 ^ 8 := Nat.pow_le_pow_right (by decide) hm.2
  have hdouble : 2 ^ s.codeSize.toNat = 2 ^ s.mcs.toNat * 2 := by rw [hw, pow_succ]
  have hhalf : 2 ^ (s.codeSize.toNat - 1) = 2 ^ s.mcs.toNat := by rw [hw, Nat.add_sub_cancel]
  exact ⟨hm, hc, he, by omega, by omega, by omega, by omega, by omega⟩

theorem dictFresh_session {s : State} (h : DictFresh s) (hi : ∀ x ∈ s.idx, x.toNat < s.clearCode.toNat)
    (hp : s.phase ≠ .idle ∧ s.phase ≠ .header) : SessionInv s :=
  have hr := dictFresh_regs h
  ⟨hr, dictInv_rootCells h.dict_eq h.size_eq h.end_eq (clearCode_range hr).2, .inl h.prev_eq,
    fun _ => ⟨h.size_eq, h.width_eq⟩, hi, hp⟩

/-- The table never fills the initial width. -/
theorem widthCheck_dictFresh {s : State} (h : DictFresh s) : widthCheck s = s := by
  rcases widthCheck_cases s with ⟨⟨hfull, hw⟩, -⟩ | ⟨-, e⟩
  · have := (dictFresh_regs h).size_full hfull
    omega
  · exact e

theorem loadMcs_fresh {b : Byte} (hb : 2 ≤ b.toNat ∧ b.toNat ≤ 8) (s : State) : DictFresh (loadMcs b s) := by
  obtain ⟨hm, hc, he, hw, hs, hp⟩ := loadMcs_numbers hb s
  exact ⟨by rw [hm]; exact hb, by rw [hc, hm], by rw [he, hc], by rw [hw, hm], by rw [hs, hc], by rw [hp, hc], rfl⟩

/-! ## A data code: its string output, and a cell appended (R162, R167 to R169) -/

theorem dictSize_succ {d : BitVec 13} (h : d.toNat < 4096) : (d + 1).toNat = d.toNat + 1 := by
  bv_omega

/-- A string of root indices, no longer than the cells in use allow, keeps the dictionary's invariant when it is appended. -/
theorem dictAppend_dictInv {s : State} {p : Str} (hr : RegsInv s) (h : DictInv s)
    (hx : ∀ x ∈ p.toList, x.toNat < s.clearCode.toNat) (hl : p.toList.length + s.clearCode.toNat ≤ s.dictSize.toNat) :
    DictInv (dictAppend p s) := by
  rcases dictAppend_cases p s with ⟨hlt, e⟩ | ⟨-, e⟩ <;> rw [e]
  case inr => exact h
  set t : State := { s with dict := Memory.write s.dict s.dictSize.toNat p, dictSize := s.dictSize + 1 }
  have hsize : t.dictSize.toNat = s.dictSize.toNat + 1 := dictSize_succ hlt
  have hclear : t.clearCode.toNat = s.clearCode.toNat := rfl
  have hend : t.endCode.toNat = s.endCode.toNat := rfl
  have hroom := hr.size_range.1
  have heoi := hr.end_eq
  have old : ∀ {c : Code} {q : Str}, dictRead s c = some q → dictRead t c = some q := by
    intro c q hq
    obtain ⟨hc, hread⟩ := dictRead_some.1 hq
    obtain ⟨hc, hne⟩ := isDataEntry_iff.1 hc
    exact dictRead_some.2 ⟨isDataEntry_iff.2 ⟨by omega, hne⟩, (Memory.read_write_other _ _ hc.ne).trans hread⟩
  refine ⟨fun c hc => old (h.roots c hc), fun c hce => ?entries, fun x hm => ?cells⟩
  case entries =>
    obtain ⟨hc, hne⟩ := isDataEntry_iff.1 hce
    by_cases hnew : c.toNat = s.dictSize.toNat
    · have hread : Memory.read t.dict c.toNat = some p := by rw [hnew]; exact Memory.read_write_self _ _ _
      exact ⟨p, dictRead_some.2 ⟨hce, hread⟩, hx, by omega⟩
    · obtain ⟨q, hq, hqx, hql⟩ := h.entries c (isDataEntry_iff.2 ⟨by omega, hne⟩)
      exact ⟨q, old hq, hqx, by omega⟩
  case cells =>
    rcases Memory.mem_write hm with rfl | hm
    · exact ⟨hsize ▸ Nat.lt_succ_self _, by simp only; omega, by simp only; omega⟩
    · have := h.cells x hm
      omega

/-- `t` is `s` with a string of root indices output and at most one cell appended, before the width check of the code. -/
structure CodeOutput (s t : State) : Prop where
  frame   : t = { s with idx := t.idx, dict := t.dict, dictSize := t.dictSize }
  size    : s.dictSize.toNat ≤ t.dictSize.toNat ∧ t.dictSize.toNat ≤ 4096 ∧ t.dictSize.toNat ≤ 2 ^ s.codeSize.toNat
  dict_wf : Memory.wf t.dict
  dict    : DictInv t
  idx_len : s.idx.length ≤ t.idx.length
  idx     : ∀ x ∈ t.idx, x.toNat < s.clearCode.toNat

theorem emit_output {s : State} {p : Str} (h : SessionInv s) (hwf : Memory.wf s.dict)
    (hx : ∀ x ∈ p.toList, x.toNat < s.clearCode.toNat) : CodeOutput s (emit p s) where
  frame := rfl
  size := ⟨le_rfl, h.regs.size_range.2, h.regs.size_le⟩
  dict_wf := hwf
  dict := ⟨h.dict.roots, h.dict.entries, h.dict.cells⟩
  idx_len := by simp [emit]
  idx := fun x hm => (List.mem_append.1 hm).elim (h.idx x) (hx x)

/-- A table that is not full has not filled its width. -/
theorem dictAppend_size {s : State} (h : RegsInv s) (e : Str) :
    s.dictSize.toNat ≤ (dictAppend e s).dictSize.toNat ∧ (dictAppend e s).dictSize.toNat ≤ 4096 ∧
      (dictAppend e s).dictSize.toNat ≤ 2 ^ s.codeSize.toNat := by
  have hle := h.size_le
  rcases dictAppend_cases e s with ⟨hlt, he⟩ | ⟨-, he⟩ <;> rw [he]
  · have hroom : s.dictSize.toNat ≠ 2 ^ s.codeSize.toNat := fun hfull => by
      rw [h.size_full hfull] at hfull
      omega
    have hsize := dictSize_succ hlt
    show _ ≤ (s.dictSize + 1).toNat ∧ (s.dictSize + 1).toNat ≤ _ ∧ (s.dictSize + 1).toNat ≤ _
    omega
  · exact ⟨le_rfl, h.size_range.2, hle⟩

theorem dictAppend_output {s : State} {p e : Str} (h : SessionInv s) (hwf : Memory.wf s.dict)
    (hx : ∀ x ∈ p.toList, x.toNat < s.clearCode.toNat) (he : ∀ x ∈ e.toList, x.toNat < s.clearCode.toNat)
    (hl : e.toList.length + s.clearCode.toNat ≤ s.dictSize.toNat) : CodeOutput s (dictAppend e (emit p s)) :=
  have ho := emit_output h hwf hx
  have hr : RegsInv (emit p s) := regsInv_frame h.regs rfl
  { frame := by rw [dictAppend_frame]; rfl
    size := dictAppend_size hr e
    dict_wf := dictAppend_dict_wf e ho.dict_wf
    dict := dictAppend_dictInv hr ho.dict he hl
    idx_len := by rw [dictAppend_idx]; exact ho.idx_len
    idx := by rw [dictAppend_idx]; exact ho.idx }

theorem codeOutput_regs {s t : State} (ho : CodeOutput s t) :
    t.mcs = s.mcs ∧ t.clearCode = s.clearCode ∧ t.endCode = s.endCode ∧ t.codeSize = s.codeSize := by
  rw [ho.frame]
  exact ⟨rfl, rfl, rfl, rfl⟩

theorem codeOutput_isDataEntry {s t : State} {c : Code} (ho : CodeOutput s t) (hc : isDataEntry s c = true) :
    isDataEntry t c = true := by
  obtain ⟨-, hclear, hend, -⟩ := codeOutput_regs ho
  obtain ⟨hlt, hne⟩ := isDataEntry_iff.1 hc
  refine isDataEntry_iff.2 ⟨hlt.trans_le ho.size.1, ?_⟩
  rw [hclear, hend]
  exact hne

/-- The width after a data code (R172). -/
theorem endDataCode_codeSize_cases (c : Code) (s : State) :
    (s.dictSize.toNat = 2 ^ s.codeSize.toNat ∧ s.codeSize.toNat < 12 ∧
      (endDataCode c s).codeSize.toNat = s.codeSize.toNat + 1) ∨
    (¬ (s.dictSize.toNat = 2 ^ s.codeSize.toNat ∧ s.codeSize.toNat < 12) ∧
      (endDataCode c s).codeSize.toNat = s.codeSize.toNat) := by
  unfold endDataCode
  rcases widthCheck_cases { s with prevCode := c, lzwState := .decoding } with ⟨⟨hf, hw⟩, e⟩ | ⟨hn, e⟩ <;> rw [e]
  · refine .inl ⟨hf, hw, ?_⟩
    show (s.codeSize + 1).toNat = _
    have : s.codeSize.toNat < 12 := hw
    bv_omega
  · exact .inr ⟨hn, rfl⟩

/-- The width check restores the bounds of the size that the append may have reached. -/
theorem endDataCode_regsInv {s t : State} (h : RegsInv s) (ho : CodeOutput s t) (c : Code) : RegsInv (endDataCode c t) := by
  obtain ⟨em, ec, ee, ew⟩ := codeOutput_regs ho
  obtain ⟨hm, hc, he, hw, hs, -, -, hge⟩ := h
  obtain ⟨hgrow, hmax, hle⟩ := ho.size
  have hcases := endDataCode_codeSize_cases c t
  rw [ew] at hcases
  have key : (s.mcs.toNat + 1 ≤ (endDataCode c t).codeSize.toNat ∧ (endDataCode c t).codeSize.toNat ≤ 12) ∧
      t.dictSize.toNat ≤ 2 ^ (endDataCode c t).codeSize.toNat ∧
      (t.dictSize.toNat = 2 ^ (endDataCode c t).codeSize.toNat → (endDataCode c t).codeSize.toNat = 12) ∧
      2 ^ ((endDataCode c t).codeSize.toNat - 1) ≤ t.dictSize.toNat := by
    rcases hcases with ⟨hf, hlt, e⟩ | ⟨hn, e⟩ <;> rw [e]
    · rw [Nat.add_sub_cancel, pow_succ]
      omega
    · omega
  obtain ⟨hwidth, hle', hfull', hge'⟩ := key
  constructor <;> simp only [endDataCode_mcs, endDataCode_clearCode, endDataCode_endCode, endDataCode_dictSize, em, ec, ee]
  · exact hm
  · exact hc
  · exact he
  · exact hwidth
  · omega
  · exact hle'
  · exact hfull'
  · exact hge'

theorem endDataCode_sessionInv {s t : State} {c : Code} (h : SessionInv s) (ho : CodeOutput s t)
    (hc : isDataEntry t c = true) : SessionInv (endDataCode c t) := by
  obtain ⟨-, ec, -, -⟩ := codeOutput_regs ho
  have hr := endDataCode_regsInv h.regs ho c
  have hd := ho.dict
  have hne := (isDataEntry_iff.1 hc).2.1
  have hp : t.phase = s.phase := by rw [ho.frame]
  rw [endDataCode_frame] at hr ⊢
  refine ⟨hr, ⟨hd.roots, hd.entries, hd.cells⟩, .inr hc, fun h => absurd h hne, ?_, ?_⟩
  · show ∀ x ∈ t.idx, x.toNat < t.clearCode.toNat
    rw [ec]
    exact ho.idx
  · show t.phase ≠ _ ∧ t.phase ≠ _
    rw [hp]
    exact h.phase

/-! ## The data codes -/

theorem snoc_toList (q : Str) (x : Byte) : (q.snoc x).toList = q.toList ++ [x] := rfl

theorem first_mem_toList (p : Str) : p.first ∈ p.toList := List.mem_cons_self

theorem snoc_roots {n : Nat} {q : Str} {x : Byte} (hq : ∀ y ∈ q.toList, y.toNat < n) (hx : x.toNat < n) :
    ∀ y ∈ (q.snoc x).toList, y.toNat < n := by
  rw [snoc_toList]
  exact fun y hy => (List.mem_append.1 hy).elim (hq y) fun h => List.mem_singleton.1 h ▸ hx

theorem snoc_length (q : Str) (x : Byte) : (q.snoc x).toList.length = q.toList.length + 1 := by
  rw [snoc_toList, List.length_append, List.length_singleton]

theorem hasPred_entry {s : State} (h : SessionInv s) (hp : hasPred s = true) : isDataEntry s s.prevCode = true :=
  h.prev.resolve_left (hasPred_iff.1 hp)

/-- The code of an entry completes: its string is output, and with a predecessor one cell is appended. -/
theorem existingCode_output {s : State} {c : Code} (h : SessionInv s) (hwf : Memory.wf s.dict)
    (hc : isDataEntry s c = true) :
    ∃ t, CodeOutput s t ∧ isDataEntry t c = true ∧ existingCode c s = .next (endDataCode c t) := by
  obtain ⟨p, hp, hpx, -⟩ := h.dict.entries c hc
  cases hpred : hasPred s
  · have ho := emit_output h hwf hpx
    exact ⟨_, ho, codeOutput_isDataEntry ho hc, existingCode_next.2 ⟨p, hp, .inl ⟨hpred, rfl⟩⟩⟩
  · obtain ⟨q, hq, hqx, hql⟩ := h.dict.entries _ (hasPred_entry h hpred)
    have hlen := snoc_length q p.first
    have ho := dictAppend_output h hwf hpx (snoc_roots hqx (hpx _ (first_mem_toList p))) (by omega)
    exact ⟨_, ho, codeOutput_isDataEntry ho hc, existingCode_next.2 ⟨p, hp, .inr ⟨hpred, q, hq, rfl⟩⟩⟩

/-- The next index to be assigned completes: its string is output and appended at that index. -/
theorem nextIndexCode_output {s : State} {c : Code} (h : SessionInv s) (hwf : Memory.wf s.dict)
    (hc : c.toNat = s.dictSize.toNat) (hpred : hasPred s = true) :
    ∃ t, CodeOutput s t ∧ isDataEntry t c = true ∧ nextIndexCode c s = .next (endDataCode c t) := by
  obtain ⟨q, hq, hqx, hql⟩ := h.dict.entries _ (hasPred_entry h hpred)
  have hlen := snoc_length q q.first
  have hsx := snoc_roots hqx (hqx _ (first_mem_toList q))
  have ho := dictAppend_output h hwf hsx hsx (by omega)
  refine ⟨_, ho, ?_, nextIndexCode_next.2 ⟨q, hq, rfl⟩⟩
  have hroom : s.dictSize.toNat < 4096 := hc ▸ c.isLt
  have hsize : (dictAppend (q.snoc q.first) (emit (q.snoc q.first) s)).dictSize.toNat = s.dictSize.toNat + 1 := by
    rcases dictAppend_cases (q.snoc q.first) (emit (q.snoc q.first) s) with ⟨-, e⟩ | ⟨hfull, -⟩
    · rw [e]
      exact dictSize_succ hroom
    · exact absurd hroom (Nat.not_lt_of_le hfull)
  obtain ⟨-, hclear, hend, -⟩ := codeOutput_regs ho
  have := h.regs.size_range.1
  have := h.regs.end_eq
  exact isDataEntry_iff.2 (by rw [hclear, hend]; omega)

end Sys2Proof.Machine
end

section
/-! SUPPORT. The invariant of the block (10_state R54) under every move: each element of a step, fault entry, the end of the code
loop, the pixel and finishing steps, and the host's accesses; with it, that from a state which meets it the step answers a next
state. -/

namespace Sys2Proof.Machine

/-! ## Fault entry and the code loop -/

/-- Fault entry in a phase whose session has not ended. -/
theorem raise_inv {s : State} {k : FaultKind} {w : BitVec 16} (hm : MemoriesWf s) (hr : ReaderInv (raise k w s))
    (hras : RasterInv s) (hf : FaultInv s) (hs : FreshInv s ∨ SessionInv s) (hp : s.phase ≠ .done) (hk : k ≠ .none) :
    BlockInv (raise k w s) where
  memories := ⟨hm.dict_wf, hm.ct_wf, hm.ct_cells⟩
  reader := hr
  raster := ⟨hras.pos_le, hras.out_len, by simp, by simp⟩
  fault := ⟨by simpa using hk, hf.one_flag, by simp, fun hi => absurd (hf.invalid hi).1 hp, fun _ => .inl rfl⟩
  session := hs.imp (fun h => ⟨h.regs, h.reader, h.empty, by simp⟩) (fun h => sessionInv_frame h (by simp) rfl)

/-- What holds between the elements of a code step: the invariant of the block, but that the bits buffered are bounded by the
width of the code that is being read (41_bit_reader R145, R150). -/
structure LoopInv (s : State) : Prop where
  memories : MemoriesWf s
  phase    : s.phase = .lzw
  acc_lt   : s.acc.toNat < 2 ^ s.nbits.toNat
  nbits_lt : s.nbits.toNat < s.codeSize.toNat + 8
  inPos_le : s.inPos ≤ s.inp.length
  raster   : RasterInv s
  fault    : FaultInv s
  session  : SessionInv s

/-- While a session runs there is no fault to report. -/
theorem faultInv_running {s : State} (h : FaultInv s) (hd : s.phase ≠ .done) (hf : s.phase ≠ .fault) :
    s.fault = .none ∧ s.mcsInvalid = false ∧ s.faultInfo = 0 := by
  have hinv : s.mcsInvalid = false := by
    cases hi : s.mcsInvalid
    · rfl
    · exact absurd (h.invalid hi).1 hd
  refine ⟨Decidable.not_not.1 fun hne => hf (h.fault_iff.1 hne), hinv, Decidable.not_not.1 fun hne => ?_⟩
  rcases h.info hne with hp | hi
  · exact hf hp
  · simp [hinv] at hi

theorem sessionInv_of_lzw {s : State} (h : BlockInv s) (hp : s.phase = .lzw) : SessionInv s :=
  h.session.resolve_left fun hf => hf.phase.1 hp

theorem loopInv_of_blockInv {s : State} (h : BlockInv s) (hp : s.phase = .lzw) : LoopInv s :=
  have hn := h.reader.nbits_lzw hp
  ⟨h.memories, hp, h.reader.acc_lt, by omega, h.reader.inPos_le, h.raster, h.fault, sessionInv_of_lzw h hp⟩

/-- A fault raised in the code loop. -/
theorem raise_loopInv {s : State} (h : LoopInv s) (hn : s.nbits.toNat ≤ 11) {k : FaultKind} (hk : k ≠ .none)
    (w : BitVec 16) : BlockInv (raise k w s) :=
  raise_inv h.memories ⟨h.acc_lt, hn, by simp, h.inPos_le⟩ h.raster h.fault (.inr h.session) (by simp [h.phase]) hk

/-- The code loop ends, by END or by TERM, with the flag of one of them. -/
theorem endCodeLoop_inv {s : State} (h : LoopInv s) (hn : s.nbits.toNat ≤ 11) {eoi soft : Bool}
    (hflag : (eoi && soft) = false) : BlockInv (endCodeLoop { s with eoiSeen := eoi, softEnd := soft }) where
  memories := ⟨h.memories.dict_wf, h.memories.ct_wf, h.memories.ct_cells⟩
  reader := ⟨h.acc_lt, hn, by simp, h.inPos_le⟩
  raster := by
    have hout := h.raster.out_len
    rw [h.raster.lzw_zero h.phase] at hout
    exact ⟨Nat.zero_le _, hout, by simp, by simp⟩
  fault := by
    obtain ⟨hnone, hinv, hinfo⟩ := faultInv_running h.fault (by simp [h.phase]) (by simp [h.phase])
    exact ⟨by simp [hnone], by simp [hflag, hinv], by simp, by simp [hinv], by simp [hinfo]⟩
  session := .inr (sessionInv_frame h.session (by simp) rfl)

/-! ## Codes -/

/-- A code that stays in the loop changes the dictionary, its registers and `IDX` only. -/
theorem blockInv_of_code {s t : State} (h : BlockInv s) (hp : s.phase = .lzw)
    (ht : t = { s with
      idx := t.idx, dict := t.dict, dictSize := t.dictSize, prevCode := t.prevCode, lzwState := t.lzwState,
      codeSize := t.codeSize })
    (hwf : Memory.wf t.dict) (hidx : s.idx.length ≤ t.idx.length) (hs : SessionInv t) : BlockInv t := by
  refine ⟨?_, ?_, ?_, ?_, .inr hs⟩ <;> rw [ht]
  · exact ⟨hwf, h.memories.ct_wf, h.memories.ct_cells⟩
  · exact ⟨h.reader.acc_lt, h.reader.nbits_le, h.reader.nbits_lzw, h.reader.inPos_le⟩
  · exact ⟨h.raster.pos_le.trans hidx, h.raster.out_len, h.raster.lzw_zero, fun hd => by simp [hp] at hd⟩
  · exact ⟨h.fault.fault_iff, h.fault.one_flag, h.fault.no_flag, h.fault.invalid, h.fault.info⟩

theorem endDataCode_inv {s t : State} {c : Code} (h : BlockInv s) (hp : s.phase = .lzw) (ho : CodeOutput s t)
    (hc : isDataEntry t c = true) : BlockInv (endDataCode c t) := by
  refine blockInv_of_code h hp ?_ ?_ ?_ (endDataCode_sessionInv (sessionInv_of_lzw h hp) ho hc)
  · rw [endDataCode_frame, ho.frame]
  · rw [endDataCode_dict]; exact ho.dict_wf
  · rw [endDataCode_idx]; exact ho.idx_len

theorem existingCode_inv {s : State} {c : Code} (h : BlockInv s) (hp : s.phase = .lzw) (hc : isDataEntry s c = true) :
    ∃ t, existingCode c s = .next t ∧ BlockInv t := by
  obtain ⟨t, ho, hct, e⟩ := existingCode_output (sessionInv_of_lzw h hp) h.memories.dict_wf hc
  exact ⟨_, e, endDataCode_inv h hp ho hct⟩

theorem nextIndexCode_inv {s : State} {c : Code} (h : BlockInv s) (hp : s.phase = .lzw)
    (hc : c.toNat = s.dictSize.toNat) (hpred : hasPred s = true) : ∃ t, nextIndexCode c s = .next t ∧ BlockInv t := by
  obtain ⟨t, ho, hct, e⟩ := nextIndexCode_output (sessionInv_of_lzw h hp) h.memories.dict_wf hc hpred
  exact ⟨_, e, endDataCode_inv h hp ho hct⟩

/-- `CLEAR` leaves the dictionary as the header step left it. -/
theorem execClear_inv {s : State} (h : BlockInv s) (hp : s.phase = .lzw) : ∃ t, execClear s = .next t ∧ BlockInv t := by
  have hs := sessionInv_of_lzw h hp
  have hc := clearCode_range hs.regs
  have hm := hs.regs.mcs_range
  set t : State :=
    { dictReset s with codeSize := s.mcs + 1, prevCode := s.clearCode.setWidth 12, lzwState := .cleared } with ht
  have hfresh : DictFresh t := by
    refine ⟨hm, hs.regs.clear_eq, hs.regs.end_eq, ?_, ?_, BitVec.toNat_setWidth_of_le (by decide), rfl⟩
    · show (s.mcs + 1).toNat = s.mcs.toNat + 1
      bv_omega
    · show (s.clearCode.setWidth 13 + 2).toNat = s.clearCode.toNat + 2
      have : (s.clearCode.setWidth 13).toNat = s.clearCode.toNat := BitVec.toNat_setWidth_of_le (by decide)
      bv_omega
  refine ⟨t, congrArg _ (widthCheck_dictFresh hfresh), ?_⟩
  exact blockInv_of_code h hp rfl (dictReset_dict_wf s) le_rfl (dictFresh_session hfresh hs.idx hs.phase)

/-- The classes of a code, with what each data code needs (30_encoding R96). -/
theorem decodeCode_cases {r : CodeRegs} (heoi : r.eoi.toNat = r.clear.toNat + 1) (hsize : r.eoi.toNat < r.dictSize.toNat)
    (c : Code) :
    decodeCode r c = .clear ∨ decodeCode r c = .endOfInfo ∨
    ((decodeCode r c = .root c ∨ decodeCode r c = .entry c) ∧
      c.toNat < r.dictSize.toNat ∧ c.toNat ≠ r.clear.toNat ∧ c.toNat ≠ r.eoi.toNat) ∨
    (decodeCode r c = .kwkwk c ∧ c.toNat = r.dictSize.toNat ∧ r.prev.toNat ≠ r.clear.toNat) ∨
    decodeCode r c = .nopred c ∨ decodeCode r c = .beyond c := by
  unfold decodeCode
  split_ifs with hclear hend hroot hentry hnext hpred
  · exact .inl rfl
  · exact .inr (.inl rfl)
  · exact .inr (.inr (.inl ⟨.inl rfl, by omega⟩))
  · exact .inr (.inr (.inl ⟨.inr rfl, hentry, hclear, hend⟩))
  · exact .inr (.inr (.inr (.inl ⟨rfl, hnext, hpred⟩)))
  · exact .inr (.inr (.inr (.inr (.inl rfl))))
  · exact .inr (.inr (.inr (.inr (.inr rfl))))

/-- Every code completes and keeps the invariant. -/
theorem exec_decodeCode_inv {s : State} (h : BlockInv s) (hp : s.phase = .lzw) (c : Code) :
    ∃ t, exec (decodeCode (codeRegs s) c) s = .next t ∧ BlockInv t := by
  have hloop := loopInv_of_blockInv h hp
  have hn := h.reader.nbits_le
  have heoi := hloop.session.regs.end_eq
  have hsize : s.endCode.toNat < s.dictSize.toNat := by have := hloop.session.regs.size_range.1; omega
  have illegal : BlockInv (raise .invalidCode (c.setWidth 16) s) := raise_loopInv hloop hn (by decide) _
  rcases decodeCode_cases (r := codeRegs s) heoi hsize c with e | e | ⟨e | e, hc⟩ | ⟨e, hc, hpred⟩ | e | e <;> rw [e]
  · exact execClear_inv h hp
  · obtain ⟨-, hsoft, -⟩ := h.fault.no_flag (.inr (.inr hp))
    exact ⟨_, rfl, endCodeLoop_inv hloop hn (eoi := true) (soft := s.softEnd) hsoft⟩
  · exact existingCode_inv h hp (isDataEntry_iff.2 hc)
  · exact existingCode_inv h hp (isDataEntry_iff.2 hc)
  · exact nextIndexCode_inv h hp hc (hasPred_iff.2 hpred)
  · exact ⟨_, rfl, illegal⟩
  · exact ⟨_, rfl, illegal⟩

/-! ## The elements of a code step -/

/-- The loop's invariant when only the bit reader's registers change. -/
theorem loopInv_reader {s t : State} (h : LoopInv s)
    (ht : t = { s with inPos := t.inPos, blkRem := t.blkRem, acc := t.acc, nbits := t.nbits })
    (hacc : t.acc.toNat < 2 ^ t.nbits.toNat) (hn : t.nbits.toNat < s.codeSize.toNat + 8) (hpos : t.inPos ≤ s.inp.length) :
    LoopInv t := by
  refine ⟨?_, ?_, hacc, ?_, ?_, ?_, ?_, sessionInv_frame h.session ?_ ?_⟩ <;> rw [ht]
  · exact ⟨h.memories.dict_wf, h.memories.ct_wf, h.memories.ct_cells⟩
  · exact h.phase
  · exact hn
  · exact hpos
  · exact ⟨h.raster.pos_le, h.raster.out_len, h.raster.lzw_zero, h.raster.done_all⟩
  · exact ⟨h.fault.fault_iff, h.fault.one_flag, h.fault.no_flag, h.fault.invalid, h.fault.info⟩
  · exact h.session.phase

/-- A byte at the cursor is not beyond the input. -/
theorem cursor_lt {s : State} {b : Byte} (h : s.inp[s.inPos]? = some b) : s.inPos + 1 ≤ s.inp.length :=
  (List.getElem?_eq_some_iff.1 h).1

theorem advance_loopInv {s : State} {b : Byte} (h : LoopInv s) (hb : s.inp[s.inPos]? = some b) : LoopInv (advance s) :=
  loopInv_reader h rfl h.acc_lt h.nbits_lt (cursor_lt hb)

theorem openBlock_loopInv {s : State} (h : LoopInv s) (n : Byte) : LoopInv (openBlock n s) :=
  loopInv_reader h rfl h.acc_lt h.nbits_lt h.inPos_le

theorem nbits_bufferByte {s : State} (x : Byte) (h : s.nbits.toNat < s.codeSize.toNat) :
    (bufferByte x s).nbits.toNat = s.nbits.toNat + 8 := by
  have := s.codeSize.isLt
  rw [bufferByte_nbits]
  bv_omega

/-- A data byte stands above the bits buffered (R145), within the accumulator's 19 bits (R150). -/
theorem acc_bufferByte {s : State} (x : Byte) (h : s.acc.toNat < 2 ^ s.nbits.toNat) (hn : s.nbits.toNat ≤ 11) :
    (bufferByte x s).acc.toNat = s.acc.toNat + x.toNat * 2 ^ s.nbits.toNat := by
  have hx : (x.setWidth 19).toNat = x.toNat := BitVec.toNat_setWidth_of_le (by decide)
  have hroom : x.toNat * 2 ^ s.nbits.toNat < 2 ^ 19 :=
    calc x.toNat * 2 ^ s.nbits.toNat < 2 ^ 8 * 2 ^ s.nbits.toNat := Nat.mul_lt_mul_of_pos_right x.isLt (Nat.two_pow_pos _)
      _ = 2 ^ (8 + s.nbits.toNat) := (pow_add _ _ _).symm
      _ ≤ 2 ^ 19 := Nat.pow_le_pow_right (by decide) (by omega)
  rw [bufferByte_acc, toNat_or_shiftLeft h (hx ▸ hroom), hx]

theorem bufferByte_loopInv {s : State} (h : LoopInv s) (hw : s.nbits.toNat < s.codeSize.toNat) (x : Byte) :
    LoopInv (bufferByte x s) := by
  have hmax := h.session.regs.width_range.2
  have hn := nbits_bufferByte x hw
  refine loopInv_reader h rfl ?_ (by omega) h.inPos_le
  rw [acc_bufferByte x h.acc_lt (by omega), hn, pow_add]
  have hacc := h.acc_lt
  have hx := x.isLt
  nlinarith

/-- The code's bits leave the accumulator (R147), and at most 7 stay (R150). -/
theorem dropCode_inv {s : State} (h : LoopInv s) (hw : s.codeSize.toNat ≤ s.nbits.toNat) : BlockInv (dropCode s) := by
  have hlt := h.nbits_lt
  have hn : (dropCode s).nbits.toNat = s.nbits.toNat - s.codeSize.toNat := by
    rw [dropCode_nbits]
    bv_omega
  have hacc : (dropCode s).acc.toNat < 2 ^ (dropCode s).nbits.toNat := by
    rw [hn, dropCode_acc, BitVec.toNat_ushiftRight, Nat.shiftRight_eq_div_pow]
    refine Nat.div_lt_of_lt_mul ?_
    rw [← pow_add, Nat.add_sub_cancel' hw]
    exact h.acc_lt
  have ht : LoopInv (dropCode s) := loopInv_reader h rfl hacc (by omega) h.inPos_le
  exact ⟨ht.memories, ⟨hacc, by omega, fun _ => by omega, ht.inPos_le⟩, ht.raster, ht.fault, .inr ht.session⟩

/-- `TERM` in the code loop (R144). -/
theorem endCodeLoop_setSoftEnd_inv {s : State} (h : LoopInv s) (hn : s.nbits.toNat ≤ 11) : BlockInv (endCodeLoop (setSoftEnd s)) := by
  obtain ⟨heoi, -, -⟩ := h.fault.no_flag (.inr (.inr h.phase))
  exact endCodeLoop_inv h hn (eoi := s.eoiSeen) (soft := true) (by rw [heoi]; rfl)

/-! ## The code step (R147, R150) -/

/-- How many elements a code step still has at most: the code, and before it one data byte for every 8 bits missing, each with a
length byte before it when its sub-block is used up. -/
def elementsLeft (s : State) : Nat :=
  if s.codeSize.toNat ≤ s.nbits.toNat then 1
  else 2 * ((s.codeSize.toNat - s.nbits.toNat + 7) / 8) + if s.blkRem = 0 then 1 else 0

theorem elementsLeft_pos (s : State) : 0 < elementsLeft s := by
  unfold elementsLeft
  split <;> omega

theorem elementsLeft_le (s : State) : elementsLeft s ≤ maxElements := by
  have := s.codeSize.isLt
  unfold elementsLeft maxElements
  split
  · omega
  · split <;> omega

theorem elementsLeft_openBlock {s : State} {n : Byte} (hw : s.nbits.toNat < s.codeSize.toNat) (hb : s.blkRem = 0)
    (hn : n ≠ 0) : elementsLeft (openBlock n (advance s)) + 1 = elementsLeft s := by
  have hw' : ¬ (openBlock n (advance s)).codeSize.toNat ≤ (openBlock n (advance s)).nbits.toNat := Nat.not_le_of_lt hw
  have hn' : (openBlock n (advance s)).blkRem ≠ 0 := hn
  rw [elementsLeft, elementsLeft, if_neg hw', if_neg hn', if_neg (Nat.not_le_of_lt hw), if_pos hb]
  rfl

theorem elementsLeft_bufferByte {s : State} (x : Byte) (hw : s.nbits.toNat < s.codeSize.toNat) (hb : s.blkRem ≠ 0) :
    elementsLeft (bufferByte x (advance s)) + 1 ≤ elementsLeft s := by
  have hn : (bufferByte x (advance s)).nbits.toNat = s.nbits.toNat + 8 := nbits_bufferByte (s := advance s) x hw
  have hc : (bufferByte x (advance s)).codeSize.toNat = s.codeSize.toNat := rfl
  unfold elementsLeft
  rw [hn, hc, if_neg (Nat.not_le_of_lt hw), if_neg hb]
  split
  · omega
  · split <;> omega

theorem engineElements_hold {n : Nat} {s : State} (hf : fetch s = .hold) : engineElements (n + 1) s = none := by
  simp only [engineElements, hf]

theorem engineElements_eos {n : Nat} {s : State} (hf : fetch s = .eos) :
    engineElements (n + 1) s = some (.next (raise .unexpectedEndOfStream 0 s)) := by
  simp only [engineElements, hf]

/-- A code step that is enabled answers a next state, and that state meets the invariant: by induction over its elements, of which
there are enough. -/
theorem engineElements_inv {n : Nat} {s : State} {o : Host.Outcome State Fault Refusal} (h : LoopInv s)
    (hleft : elementsLeft s ≤ n) (ho : engineElements n s = some o) : ∃ t, o = .next t ∧ BlockInv t := by
  induction n generalizing s with
  | zero => exact absurd hleft (Nat.not_le_of_lt (elementsLeft_pos s))
  | succ n ih =>
    have hmax := h.session.regs.width_range.2
    cases hf : fetch s with
    | hold => rw [engineElements_hold hf] at ho; cases ho
    | eos =>
      rw [engineElements_eos hf, Option.some.injEq] at ho
      have hw : s.nbits.toNat < s.codeSize.toNat := by
        obtain ⟨hp | ⟨-, hw⟩, -⟩ := fetch_eos hf
        · exact absurd hp (by simp [h.phase])
        · exact hw
      exact ⟨_, ho.symm, raise_loopInv h (by omega) (by decide) 0⟩
    | instr i t =>
      rcases fetch_instr hf with ⟨hp, -⟩ | ⟨-, hw, rfl, rfl⟩ | ⟨-, hw, b, hb, rfl, rfl⟩ | ⟨hp, -⟩ | ⟨hp, -⟩
      · exact absurd hp (by simp [h.phase])
      · obtain ⟨t, he, ht⟩ := exec_decodeCode_inv (dropCode_inv h hw) h.phase (bufferedCode s)
        rw [engineElements_instr hf he, continuesStep_decodeCode, if_neg Bool.false_ne_true, Option.some.injEq] at ho
        exact ⟨t, ho.symm, ht⟩
      · have hadv := advance_loopInv h hb
        rcases framingFormat_cases s b with ⟨e, -, -⟩ | ⟨e, hrem, hne⟩ | ⟨e, hrem⟩ <;> rw [e] at hf
        · rw [engineElements_instr hf rfl, if_neg (by simp [continuesStep]), Option.some.injEq] at ho
          exact ⟨_, ho.symm, endCodeLoop_setSoftEnd_inv hadv (by rw [advance_nbits]; omega)⟩
        · rw [engineElements_instr hf rfl, if_pos (by rfl)] at ho
          exact ih (openBlock_loopInv hadv b) (by have := elementsLeft_openBlock hw hrem hne; omega) ho
        · rw [engineElements_instr hf rfl, if_pos (by rfl)] at ho
          exact ih (bufferByte_loopInv hadv hw b) (by have := elementsLeft_bufferByte b hw hrem; omega) ho
      · exact absurd hp (by simp [h.phase])
      · exact absurd hp (by simp [h.phase])

/-! ## The engine's turn -/

theorem engineTurn_hold {s : State} (hf : fetch s = .hold) : engineTurn s = .next s := by
  rw [engineTurn, engineStep, maxElements, engineElements_hold hf]

theorem engineTurn_eos {s : State} (hf : fetch s = .eos) :
    engineTurn s = .next (raise .unexpectedEndOfStream 0 s) := by
  rw [engineTurn, engineStep, maxElements, engineElements_eos hf]

/-- What the header phase says of the session and of the flags. -/
theorem freshInv_of_header {s : State} (h : BlockInv s) (hp : s.phase = .idle ∨ s.phase = .header) : FreshInv s :=
  h.session.resolve_right fun hs => hp.elim hs.phase.1 hs.phase.2

/-- The header step (R142): the registers of a session, or the end with nothing decoded. -/
theorem exec_decodeMcs_inv {s : State} {b : Byte} (h : BlockInv s) (hp : s.phase = .header)
    (hb : s.inp[s.inPos]? = some b) : ∃ t, exec (decodeMcs b) (advance s) = .next t ∧ BlockInv t := by
  have hfresh := freshInv_of_header h (.inr hp)
  obtain ⟨heoi, hsoft, -⟩ := h.fault.no_flag (.inr (.inl hp))
  obtain ⟨hnone, hinv, hinfo⟩ := faultInv_running h.fault (by simp [hp]) (by simp [hp])
  have hmem : MemoriesWf (advance s) := ⟨h.memories.dict_wf, h.memories.ct_wf, h.memories.ct_cells⟩
  obtain ⟨-, hidx, hout, hpos⟩ := hfresh.empty
  obtain ⟨-, hacc, hn⟩ := hfresh.reader
  unfold decodeMcs
  split
  · refine ⟨_, rfl, ⟨hmem.dict_wf, hmem.ct_wf, hmem.ct_cells⟩, ?_, ?_, ?_, .inl ?_⟩
    · exact ⟨h.reader.acc_lt, h.reader.nbits_le, by simp, cursor_lt hb⟩
    · exact ⟨h.raster.pos_le, h.raster.out_len, by simp, by simp [hpos, hidx]⟩
    · exact ⟨by simp [hnone], by simp [heoi, hsoft], by simp, by simp [hfresh.regs.1], by simp⟩
    · exact ⟨hfresh.regs, hfresh.reader, hfresh.empty, by simp⟩
  · next hrange =>
    have hfr : DictFresh (loadMcs b (advance s)) :=
      loadMcs_fresh (by simp only [Config.mcsMin, Config.mcsMax] at hrange; omega) _
    refine ⟨_, rfl, ⟨loadMcs_dict_wf b _, hmem.ct_wf, hmem.ct_cells⟩, ?_, ?_, ?_, .inr ?_⟩
    · exact ⟨h.reader.acc_lt, h.reader.nbits_le, by simp [hn], cursor_lt hb⟩
    · exact ⟨h.raster.pos_le, h.raster.out_len, by simp [hpos], by simp⟩
    · exact ⟨by simp [hnone], by simp [heoi, hsoft], by simp [heoi, hsoft, hinv], by simp [hinv], by simp [hinfo]⟩
    · exact dictFresh_session hfr (by simp [hidx]) (by simp)

/-- A pixel step (43_pixel_lookup R190, R191). -/
theorem execLookup_inv {s : State} {k : Byte} (h : BlockInv s) (hp : s.phase = .composite)
    (hk : s.idx[s.compPos]? = some k) : ∃ t, execLookup k s = .next t ∧ BlockInv t := by
  have hs : SessionInv s := h.session.resolve_left fun hf => hf.phase.2 hp
  unfold execLookup
  split
  · refine ⟨_, rfl, raise_inv h.memories ?_ h.raster h.fault h.session (by simp [hp]) (by decide)⟩
    exact ⟨h.reader.acc_lt, h.reader.nbits_le, by simp, h.reader.inPos_le⟩
  · have hlen : (s.out ++ pixelBytes (ctColour s k)).length = 4 * (s.compPos + 1) := by
      rw [List.length_append, h.raster.out_len]
      rfl
    refine ⟨_, rfl, ⟨h.memories.dict_wf, h.memories.ct_wf, h.memories.ct_cells⟩, ?_, ?_, ?_, .inr ?_⟩
    · exact ⟨h.reader.acc_lt, h.reader.nbits_le, h.reader.nbits_lzw, h.reader.inPos_le⟩
    · exact ⟨(List.getElem?_eq_some_iff.1 hk).1, hlen, by simp [hp], by simp [hp]⟩
    · exact ⟨h.fault.fault_iff, h.fault.one_flag, h.fault.no_flag, h.fault.invalid, h.fault.info⟩
    · exact sessionInv_frame hs hs.phase rfl

/-- The finishing step (R192). -/
theorem execFinish_inv {s : State} (h : BlockInv s) (hp : s.phase = .composite) (hl : s.compPos = s.idx.length) :
    BlockInv { s with phase := .done } := by
  have hs : SessionInv s := h.session.resolve_left fun hf => hf.phase.2 hp
  obtain ⟨hnone, hinv, hinfo⟩ := faultInv_running h.fault (by simp [hp]) (by simp [hp])
  refine ⟨⟨h.memories.dict_wf, h.memories.ct_wf, h.memories.ct_cells⟩, ?_, ?_, ?_, .inr ?_⟩
  · exact ⟨h.reader.acc_lt, h.reader.nbits_le, by simp, h.reader.inPos_le⟩
  · exact ⟨h.raster.pos_le, h.raster.out_len, by simp, fun _ => hl⟩
  · exact ⟨by simp [hnone], h.fault.one_flag, by simp, by simp [hinv], by simp [hinfo]⟩
  · exact sessionInv_frame hs (by simp) rfl

/-- The engine's turn, by phase. -/
theorem engineTurn_inv {s : State} (h : BlockInv s) : ∃ t, engineTurn s = .next t ∧ BlockInv t := by
  by_cases hp : s.phase = .lzw
  · cases ho : engineStep s with
    | none => exact ⟨s, engineTurn_next.2 (.inr ⟨ho, rfl⟩), h⟩
    | some o =>
      obtain ⟨t, rfl, ht⟩ := engineElements_inv (loopInv_of_blockInv h hp) (elementsLeft_le s) ho
      exact ⟨t, engineTurn_next.2 (.inl ho), ht⟩
  cases hf : fetch s with
  | hold => exact ⟨s, engineTurn_hold hf, h⟩
  | eos =>
    have hheader : s.phase = .header := (fetch_eos hf).1.resolve_right fun hl => hp hl.1
    refine ⟨_, engineTurn_eos hf, raise_inv h.memories ?_ h.raster h.fault h.session (by simp [hheader]) (by decide)⟩
    exact ⟨h.reader.acc_lt, h.reader.nbits_le, by simp, h.reader.inPos_le⟩
  | instr i t =>
    rcases fetch_instr hf with ⟨hp', b, hb, rfl, rfl⟩ | ⟨hp', -⟩ | ⟨hp', -⟩ | ⟨hp', k, hk, rfl, rfl⟩ | ⟨hp', hl, rfl, rfl⟩
    · rw [engineTurn_single hf (continuesStep_decodeMcs b)]
      exact exec_decodeMcs_inv h hp' hb
    · exact absurd hp' hp
    · exact absurd hp' hp
    · rw [engineTurn_single hf rfl]
      exact execLookup_inv h hp' hk
    · rw [engineTurn_single hf rfl]
      exact ⟨_, rfl, execFinish_inv h hp' hl⟩

/-! ## The host's accesses -/

/-- What the host may change without the phase: the input behind the cursor, the colour table, and items the invariant does not
speak of. -/
theorem blockInv_frame {s t : State} (h : BlockInv s)
    (ht : t = { s with
      inp := t.inp, inClosed := t.inClosed, ct := t.ct, ctSize := t.ctSize, outAddr := t.outAddr, agenda := t.agenda,
      rdata := t.rdata, session := t.session })
    (hin : s.inPos ≤ t.inp.length) (hct : Memory.wf t.ct ∧ ∀ e ∈ t.ct, e.1 < 256) : BlockInv t := by
  rw [ht]
  refine ⟨⟨h.memories.dict_wf, hct.1, hct.2⟩, ⟨h.reader.acc_lt, h.reader.nbits_le, h.reader.nbits_lzw, hin⟩,
    ⟨h.raster.pos_le, h.raster.out_len, h.raster.lzw_zero, h.raster.done_all⟩,
    ⟨h.fault.fault_iff, h.fault.one_flag, h.fault.no_flag, h.fault.invalid, h.fault.info⟩, ?_⟩
  rcases h.session with hf | hs
  · exact .inl ⟨hf.regs, hf.reader, hf.empty, hf.phase⟩
  · exact .inr (sessionInv_frame hs hs.phase rfl)

theorem resetBlock_inv (s : State) : BlockInv (resetBlock s) := by
  refine ⟨⟨?_, ?_, ?_⟩, ⟨?_, ?_, ?_, ?_⟩, ⟨?_, ?_, ?_, ?_⟩, ⟨?_, ?_, ?_, ?_, ?_⟩, .inl ⟨?_, ?_, ?_, ?_⟩⟩ <;>
    simp [State.reset]

/-- `START` in `IDLE` (40_host_commands R121). -/
theorem startHeader_inv {s : State} (h : BlockInv s) (hp : s.phase = .idle) (closed : Bool) :
    BlockInv { s with inClosed := closed, phase := .header } := by
  have hfresh := freshInv_of_header h (.inl hp)
  have hflags := h.fault.no_flag (.inl hp)
  obtain ⟨hnone, hinv, hinfo⟩ := faultInv_running h.fault (by simp [hp]) (by simp [hp])
  refine ⟨⟨h.memories.dict_wf, h.memories.ct_wf, h.memories.ct_cells⟩, ?_, ?_, ?_, .inl ?_⟩
  · exact ⟨h.reader.acc_lt, h.reader.nbits_le, by simp, h.reader.inPos_le⟩
  · exact ⟨h.raster.pos_le, h.raster.out_len, by simp, by simp⟩
  · exact ⟨by simp [hnone], h.fault.one_flag, fun _ => hflags, by simp [hinv], by simp [hinfo]⟩
  · exact ⟨hfresh.regs, hfresh.reader, hfresh.empty, by simp⟩

theorem hostWrite_inv {s t : State} {reg : Nat} {v : Word} (h : BlockInv s) (hw : hostWrite reg v s = .next t) :
    BlockInv t := by
  have hct : Memory.wf s.ct ∧ ∀ e ∈ s.ct, e.1 < 256 := ⟨h.memories.ct_wf, h.memories.ct_cells⟩
  by_cases hr : reg = 0 ∧ v.getLsbD 1 = true
  · obtain ⟨rfl, hv⟩ := hr
    cases (hostWrite_instr (decodeWrite_reset hv) s).symm.trans hw
    exact resetBlock_inv s
  rcases hostWrite_effect hw hr with ⟨e, -, hp | ⟨hp, hp'⟩⟩ | ⟨-, n, rfl⟩ | ⟨-, i, c, rfl⟩ | ⟨-, b, rfl⟩ | ⟨k, rfl⟩
  · rw [hp] at e
    rw [e]
    exact blockInv_frame h rfl h.reader.inPos_le hct
  · rw [e, hp']
    exact startHeader_inv h hp _
  · exact blockInv_frame h rfl h.reader.inPos_le hct
  · refine blockInv_frame h rfl h.reader.inPos_le ⟨Memory.write_wf _ _ hct.1, fun e he => ?_⟩
    rcases Memory.mem_write he with rfl | he
    · exact i.isLt
    · exact hct.2 e he
  · refine blockInv_frame h rfl ?_ hct
    rw [List.length_append]
    exact Nat.le_add_right_of_le h.reader.inPos_le
  · exact blockInv_frame h rfl h.reader.inPos_le hct

theorem hostRead_inv {s t : State} {reg : Nat} (h : BlockInv s) (hr : hostRead reg s = .next t) : BlockInv t := by
  rw [hostRead_effect hr]
  exact blockInv_frame h rfl h.reader.inPos_le ⟨h.memories.ct_wf, h.memories.ct_cells⟩

/-- Every host command completes, in every state. -/
theorem exec_host_next {i : Instr} (hi : isElement i = false) (s : State) : ∃ t, exec i s = .next t := by
  cases i with
  | ctsize | ctwr | push =>
    simp only [exec, execCtsize, execCtwr, execPush]
    split <;> exact ⟨_, rfl⟩
  | mcs | mcsInvalid | term | blklen | data | entry | kwkwk | nopred | beyond | clear | endOfInfo | root | lookup | finish =>
    cases hi
  | _ => exact ⟨_, rfl⟩

theorem isElement_decodeWrite {reg : Nat} {v : Word} {i : Instr} (h : decodeWrite reg v = .instr i) : isElement i = false := by
  unfold decodeWrite at h
  repeat' split at h
  all_goals cases h
  all_goals rfl

theorem decoded_ite {p : Prop} [Decidable p] {a b : Decoded} {i : Instr} (h : (if p then a else b) = .instr i) :
    a = .instr i ∨ b = .instr i := by
  split at h
  · exact .inl h
  · exact .inr h

theorem isElement_decodeRead {reg : Nat} {i : Instr} (h : decodeRead reg = .instr i) : isElement i = false := by
  unfold decodeRead at h
  iterate 10
    obtain h | h := decoded_ite h
    · cases h
      rfl
  obtain h | h := decoded_ite h <;> cases h

theorem hostWrite_completes (reg : Nat) (v : Word) (s : State) : ∃ t, hostWrite reg v s = .next t := by
  cases hd : decodeWrite reg v with
  | instr i => rw [hostWrite_instr hd]; exact exec_host_next (isElement_decodeWrite hd) s
  | rejected w => exact ⟨s, hostWrite_next.2 (.inr ⟨w, hd, rfl⟩)⟩

theorem hostRead_completes (reg : Nat) (s : State) : ∃ t, hostRead reg s = .next t := by
  cases hd : decodeRead reg with
  | instr i => rw [hostRead_instr hd]; exact exec_host_next (isElement_decodeRead hd) s
  | rejected w => exact ⟨_, hostRead_next.2 (.inr ⟨w, hd, rfl⟩)⟩

/-! ## The step -/

theorem takeAgenda_inv {s : State} (h : BlockInv s) (r : List Turn) : BlockInv { s with agenda := r } :=
  blockInv_frame h rfl h.reader.inPos_le ⟨h.memories.ct_wf, h.memories.ct_cells⟩

/-- From a state that meets the invariant the step answers a next state that meets it. -/
theorem step_inv {s : State} (h : BlockInv s) : ∃ t, step s = .next t ∧ BlockInv t := by
  cases ha : s.agenda with
  | nil =>
    rw [step_engine (.inl ⟨ha, rfl⟩)]
    exact engineTurn_inv h
  | cons turn r =>
    have hr := takeAgenda_inv h r
    cases turn with
    | engine =>
      rw [step_engine (.inr ⟨r, ha, rfl⟩)]
      exact engineTurn_inv hr
    | write reg v =>
      obtain ⟨t, ht⟩ := hostWrite_completes reg v { s with agenda := r }
      exact ⟨t, (step_write ha).trans ht, hostWrite_inv hr ht⟩
    | read reg =>
      obtain ⟨t, ht⟩ := hostRead_completes reg { s with agenda := r }
      exact ⟨t, (step_read ha).trans ht, hostRead_inv hr ht⟩

/-- Settles O9, by `step_inv`: by the move that is due, and in the code loop by induction over the elements of the code step. -/
theorem invKeptByEveryStep : Obligations.InvKeptByEveryStep := by
  intro s t h hs
  obtain ⟨u, hu, hinv⟩ := step_inv h
  cases hu.symm.trans hs
  exact hinv

/-- Settles O13, by the same lemma. -/
theorem invStatesAlwaysStep : Obligations.InvStatesAlwaysStep := by
  intro s h
  obtain ⟨t, ht, -⟩ := step_inv h
  exact ⟨t, ht⟩

end Sys2Proof.Machine
end

section
/-! SUPPORT. The canonical form of the memories under every move (20_memory R60): each move keeps each of the two memories, writes
one cell of it, or lists it anew. -/

namespace Sys2Proof.Machine

theorem existingCode_dict_wf {c : Code} {s t : State} (h : existingCode c s = .next t) (hwf : Memory.wf s.dict) :
    Memory.wf t.dict := by
  obtain ⟨p, -, ⟨-, rfl⟩ | ⟨-, q, -, rfl⟩⟩ := existingCode_next.1 h <;> rw [endDataCode_dict]
  · exact hwf
  · exact dictAppend_dict_wf _ hwf

theorem nextIndexCode_dict_wf {c : Code} {s t : State} (h : nextIndexCode c s = .next t) (hwf : Memory.wf s.dict) :
    Memory.wf t.dict := by
  obtain ⟨q, -, rfl⟩ := nextIndexCode_next.1 h
  rw [endDataCode_dict]
  exact dictAppend_dict_wf _ hwf

theorem execClear_dict_wf {s t : State} (h : execClear s = .next t) : Memory.wf t.dict := by
  cases h
  rw [widthCheck_dict]
  exact dictReset_dict_wf s

/-- The meaning of an element leaves the colour table alone and keeps the dictionary canonical. -/
theorem exec_element_memories {i : Instr} {s t : State} (hi : isElement i = true) (h : exec i s = .next t) :
    t.ct = s.ct ∧ (Memory.wf s.dict → Memory.wf t.dict) := by
  cases i with
  | mcs n => cases h; exact ⟨rfl, fun _ => loadMcs_dict_wf n s⟩
  | mcsInvalid | term | blklen | data | endOfInfo | nopred | beyond | finish => cases h; exact ⟨rfl, id⟩
  | entry | root => exact ⟨by rw [existingCode_frame h], existingCode_dict_wf h⟩
  | kwkwk => exact ⟨by rw [nextIndexCode_frame h], nextIndexCode_dict_wf h⟩
  | clear => exact ⟨by cases h; simp, fun _ => execClear_dict_wf h⟩
  | lookup => rcases execLookup_effect h with ⟨-, rfl⟩ | ⟨-, rfl⟩ <;> exact ⟨rfl, id⟩
  | _ => cases hi

theorem fetch_memories {i : Instr} {s t : State} (h : fetch s = .instr i t) : t.dict = s.dict ∧ t.ct = s.ct := by
  rcases fetch_instr h with ⟨-, b, -, -, rfl⟩ | ⟨-, -, -, rfl⟩ | ⟨-, -, b, -, -, rfl⟩ | ⟨-, k, -, -, rfl⟩ | ⟨-, -, -, rfl⟩ <;>
    exact ⟨rfl, rfl⟩

/-- An element of a step: its fetch and its meaning together. -/
theorem element_memoriesWf {i : Instr} {s t v : State} (hf : fetch s = .instr i t) (he : exec i t = .next v)
    (h : MemoriesWf s) : MemoriesWf v := by
  obtain ⟨hdict, hct⟩ := fetch_memories hf
  obtain ⟨hct', hwf⟩ := exec_element_memories (isElement_of_fetch hf) he
  rw [hct] at hct'
  exact ⟨hwf (hdict ▸ h.dict_wf), hct' ▸ h.ct_wf, hct' ▸ h.ct_cells⟩

/-- A host write that is no RESET: only `CTWR` touches a memory, and its cell number is a byte (R124). -/
theorem hostWrite_memoriesWf {s t : State} {reg : Nat} {v : Word} (hr : ¬ (reg = 0 ∧ v.getLsbD 1 = true))
    (hw : hostWrite reg v s = .next t) (h : MemoriesWf s) : MemoriesWf t := by
  rcases hostWrite_effect hw hr with ⟨e, -⟩ | ⟨-, n, rfl⟩ | ⟨-, i, c, rfl⟩ | ⟨-, b, rfl⟩ | ⟨k, rfl⟩
  · rw [e]
    exact ⟨h.dict_wf, h.ct_wf, h.ct_cells⟩
  · exact ⟨h.dict_wf, h.ct_wf, h.ct_cells⟩
  · refine ⟨h.dict_wf, Memory.write_wf _ _ h.ct_wf, fun e he => ?_⟩
    rcases Memory.mem_write he with rfl | he
    · exact i.isLt
    · exact h.ct_cells e he
  · exact ⟨h.dict_wf, h.ct_wf, h.ct_cells⟩
  · exact ⟨h.dict_wf, h.ct_wf, h.ct_cells⟩

/-- Settles O10: RESET empties both memories; every other step is a run of moves, each of which keeps them canonical. -/
theorem memoriesStayCanonical : Obligations.MemoriesStayCanonical := by
  intro s t hm h
  by_cases hr : ResetDue s
  · obtain ⟨r, hs⟩ := step_resetDue hr
    cases hs.symm.trans h
    exact (resetBlock_inv _).memories
  refine step_induction (R := fun s t => MemoriesWf s → MemoriesWf t) ?trans ?agenda ?eos ?elem ?write ?read h hr hm
  case trans => exact fun a b c hab hbc ha => hbc (hab ha)
  case agenda => exact fun s r hm => ⟨hm.dict_wf, hm.ct_wf, hm.ct_cells⟩
  case eos => exact fun s _ hm => ⟨hm.dict_wf, hm.ct_wf, hm.ct_cells⟩
  case elem => exact fun s i t v hf he hm => element_memoriesWf hf he hm
  case write => exact fun s reg v t hr hw hm => hostWrite_memoriesWf hr hw hm
  case read => exact fun s w hm => ⟨hm.dict_wf, hm.ct_wf, hm.ct_cells⟩

end Sys2Proof.Machine
end

section
/-! SUPPORT. The elements of a code step, forwards: a data byte goes above the bits buffered and the step goes on; the code is
taken from the low end and ends the step (20_memory R62, R63; 41_bit_reader R145, R147). -/

namespace Sys2Proof.Machine

/-- A data byte of the current sub-block is buffered and the step goes on. -/
theorem engineElements_dataByte {n : Nat} {s : State} {x : Byte} (hp : s.phase = .lzw)
    (hw : s.nbits.toNat < s.codeSize.toNat) (hb : s.blkRem ≠ 0) (hx : s.inp[s.inPos]? = some x) :
    engineElements (n + 1) s = engineElements n (bufferByte x (advance s)) := by
  have hf := fetch_framing hp hw hx
  rw [framingFormat, if_neg hb] at hf
  exact engineElements_instr hf rfl

/-- A buffered code ends the step with its meaning, whatever that answers. -/
theorem engineElements_code {n : Nat} {s : State} (hp : s.phase = .lzw) (hw : s.codeSize.toNat ≤ s.nbits.toNat) :
    engineElements (n + 1) s = some (exec (decodeCode (codeRegs s) (bufferedCode s)) (dropCode s)) := by
  rw [engineElements, fetch_code hp hw]
  cases he : exec (decodeCode (codeRegs s) (bufferedCode s)) (dropCode s) <;> simp [he, continuesStep_decodeCode]

theorem step_of_engineElements {s u : State} {o : Host.Outcome State Fault Refusal} (hd : EngineDue s u)
    (h : engineElements maxElements u = some o) : step s = o := by
  rw [step_engine hd, engineTurn, engineStep, h]

/-- The bits buffered stay below `2^NBITS` when a data byte is put above them. -/
theorem acc_bufferByte_lt {s : State} (x : Byte) (h : s.acc.toNat < 2 ^ s.nbits.toNat) (hn : s.nbits.toNat ≤ 11) :
    (bufferByte x s).acc.toNat < 2 ^ (s.nbits.toNat + 8) :=
  calc (bufferByte x s).acc.toNat = s.acc.toNat + x.toNat * 2 ^ s.nbits.toNat := acc_bufferByte x h hn
    _ < 2 ^ s.nbits.toNat + x.toNat * 2 ^ s.nbits.toNat := Nat.add_lt_add_right h _
    _ = (x.toNat + 1) * 2 ^ s.nbits.toNat := by ring
    _ ≤ 2 ^ 8 * 2 ^ s.nbits.toNat := Nat.mul_le_mul_right _ x.isLt
    _ = 2 ^ (s.nbits.toNat + 8) := by ring

/-- `ACC[w−1:0]` as a number, `w` being at most the 12 bits of a code (R147). -/
theorem bufferedCode_toNat {s : State} (hw : s.codeSize.toNat ≤ 12) :
    (bufferedCode s).toNat = s.acc.toNat % 2 ^ s.codeSize.toNat := by
  have hacc : (s.acc.setWidth 32).toNat = s.acc.toNat := BitVec.toNat_setWidth_of_le (by decide)
  have hlt : s.acc.toNat % 2 ^ s.codeSize.toNat < 2 ^ 12 :=
    (Nat.mod_lt _ (Nat.two_pow_pos _)).trans_le (Nat.pow_le_pow_right (by decide) hw)
  rw [bufferedCode, codeBits, hacc, BitVec.toNat_ofNat, Nat.mod_eq_of_lt hlt]

theorem dropCode_acc_toNat (s : State) : (dropCode s).acc.toNat = s.acc.toNat / 2 ^ s.codeSize.toNat := by
  rw [dropCode_acc, BitVec.toNat_ushiftRight, Nat.shiftRight_eq_div_pow]

theorem dropCode_nbits_toNat {s : State} (hw : s.codeSize.toNat ≤ s.nbits.toNat) :
    (dropCode s).nbits.toNat = s.nbits.toNat - s.codeSize.toNat := by
  rw [dropCode_nbits]
  bv_omega

/-- The end of a code step in numbers: the code is the low bits of the accumulator, the rest stay, and nothing else changes. -/
theorem engineElements_code_numbers (n : Nat) {s : State} (hp : s.phase = .lzw) (h12 : s.codeSize.toNat ≤ 12)
    (hw : s.codeSize.toNat ≤ s.nbits.toNat) :
    ∃ (c : Code) (t : State), c.toNat = s.acc.toNat % 2 ^ s.codeSize.toNat ∧
      t.acc.toNat = s.acc.toNat / 2 ^ s.codeSize.toNat ∧ t.nbits.toNat = s.nbits.toNat - s.codeSize.toNat ∧
      t = { s with acc := t.acc, nbits := t.nbits } ∧
      engineElements (n + 1) s = some (exec (decodeCode (codeRegs s) c) t) :=
  ⟨bufferedCode s, dropCode s, bufferedCode_toNat h12, dropCode_acc_toNat s, dropCode_nbits_toNat hw, rfl,
    engineElements_code hp hw⟩

/-- Settles O17: one or two data bytes, each put above the bits buffered, and then the code from the low end. -/
theorem codeBitsComeLowFirst : Obligations.CodeBitsComeLowFirst := by
  intro s u x hd hp h12 hacc hw hx
  have hn : u.nbits.toNat ≤ 11 := by omega
  set v := bufferByte x (advance u)
  have hvw : v.codeSize = u.codeSize := rfl
  have hvn : v.nbits.toNat = u.nbits.toNat + 8 := nbits_bufferByte (s := advance u) x hw
  have hva : v.acc.toNat = u.acc.toNat + x.toNat * 2 ^ u.nbits.toNat := acc_bufferByte (s := advance u) x hacc hn
  have hfirst (n : Nat) (hb : 1 ≤ u.blkRem.toNat) : engineElements (n + 1) u = engineElements n v :=
    engineElements_dataByte hp hw (by bv_omega) hx
  refine ⟨fun hle hb => ?one, fun y hlt hb hy => ?two⟩
  case one =>
    obtain ⟨c, t, hc, hta, htn, ht, he⟩ := engineElements_code_numbers 3 (s := v) hp h12 (hvn ▸ hle)
    have hrem : t.blkRem = u.blkRem - 1 := congrArg State.blkRem ht
    refine ⟨c, t, by rw [hc, hva, hvw], by rw [hta, hva, hvw], by rw [htn, hvn, hvw], by bv_omega, ?_, ?_⟩
    · rw [ht]
      rfl
    · exact step_of_engineElements hd ((hfirst 4 hb).trans he)
  case two =>
    have hvlt : v.acc.toNat < 2 ^ v.nbits.toNat := hvn ▸ acc_bufferByte_lt (s := advance u) x hacc hn
    have hvless : v.nbits.toNat < v.codeSize.toNat := hvn ▸ hlt
    have hvrem : v.blkRem = u.blkRem - 1 := rfl
    set z := bufferByte y (advance v)
    have hzw : z.codeSize = u.codeSize := rfl
    have hzn : z.nbits.toNat = u.nbits.toNat + 16 := by
      rw [nbits_bufferByte (s := advance v) y hvless, advance_nbits, hvn]
    have hza : z.acc.toNat = u.acc.toNat + x.toNat * 2 ^ u.nbits.toNat + y.toNat * 2 ^ (u.nbits.toNat + 8) := by
      rw [acc_bufferByte (s := advance v) y hvlt (by rw [advance_nbits]; omega), advance_acc, advance_nbits, hva, hvn]
    have hsecond : engineElements 4 v = engineElements 3 z :=
      engineElements_dataByte (s := v) hp hvless (by bv_omega) hy
    obtain ⟨c, t, hc, hta, htn, ht, he⟩ :=
      engineElements_code_numbers 2 (s := z) hp h12 (by rw [hzw]; omega)
    have hrem : t.blkRem = u.blkRem - 1 - 1 := congrArg State.blkRem ht
    refine ⟨c, t, by rw [hc, hza, hzw], by rw [hta, hza, hzw], by rw [htn, hzn, hzw], by bv_omega, ?_, ?_⟩
    · rw [ht]
      rfl
    · exact step_of_engineElements hd ((hfirst 4 (by omega)).trans (hsecond.trans he))

end Sys2Proof.Machine
end

section
/-! SUPPORT. The class of a code by the tests of R96 (30_encoding section 3). -/

namespace Sys2Proof.Machine

/-- The tests of R96 in their order: the class of a code, the condition of its row, and what the earlier rows leave. -/
theorem decodeCode_class (r : CodeRegs) (c : Code) :
    (decodeCode r c = .clear ∧ c.toNat = r.clear.toNat) ∨
    (decodeCode r c = .endOfInfo ∧ c.toNat = r.eoi.toNat ∧ c.toNat ≠ r.clear.toNat) ∨
    (decodeCode r c = .root c ∧ c.toNat < r.clear.toNat ∧ c.toNat ≠ r.eoi.toNat) ∨
    (r.clear.toNat < c.toNat ∧ c.toNat ≠ r.eoi.toNat ∧
      ((decodeCode r c = .entry c ∧ c.toNat < r.dictSize.toNat) ∨
       (decodeCode r c = .kwkwk c ∧ c.toNat = r.dictSize.toNat ∧ r.prev.toNat ≠ r.clear.toNat) ∨
       (decodeCode r c = .nopred c ∧ c.toNat = r.dictSize.toNat ∧ r.prev.toNat = r.clear.toNat) ∨
       (decodeCode r c = .beyond c ∧ r.dictSize.toNat < c.toNat))) := by
  unfold decodeCode
  split_ifs with hclear hend hroot hentry hnext hpred
  · exact .inl ⟨rfl, hclear⟩
  · exact .inr (.inl ⟨rfl, hend, hclear⟩)
  · exact .inr (.inr (.inl ⟨rfl, hroot, hend⟩))
  all_goals refine .inr (.inr (.inr ⟨by omega, hend, ?_⟩))
  · exact .inl ⟨rfl, hentry⟩
  · exact .inr (.inl ⟨rfl, hnext, hpred⟩)
  · exact .inr (.inr (.inl ⟨rfl, hnext, not_not.1 hpred⟩))
  · exact .inr (.inr (.inr ⟨rfl, by omega⟩))

/-- The order of the control codes and the dictionary's size (10_state R54 items 1 to 3). -/
theorem legal_bounds {w : BitVec 4} {r : CodeRegs} (h : r.legal w = true) :
    r.eoi.toNat = r.clear.toNat + 1 ∧ r.eoi.toNat < r.dictSize.toNat := by
  obtain ⟨-, -, -, -, heoi, hsize, -⟩ := of_decide_eq_true h
  omega

/-- Settles O4: the class is one of seven, and under legal registers its condition excludes those of the other six. -/
theorem codeClassConditions : Obligations.CodeClassConditions := by
  intro w r c hl
  obtain ⟨heoi, hsize⟩ := legal_bounds hl
  rcases decodeCode_class r c with ⟨e, h⟩ | ⟨e, h, -⟩ | ⟨e, h, -⟩ | ⟨hc, hne, ⟨e, h⟩ | ⟨e, h, hp⟩ | ⟨e, h, hp⟩ | ⟨e, h⟩⟩
  all_goals
    rw [e]
    simp only [reduceCtorEq, true_iff, false_iff]
    omega

end Sys2Proof.Machine
end

section
/-! SUPPORT. What a step does to `CODE_SIZE` (30_encoding R99): the header step and `CLEAR` set it, and the width check of a data
code makes it one wider. -/

namespace Sys2Proof.Machine

/-- The table has reached `2^CODE_SIZE`, and the width is one more (42_lzw_codes R172). -/
def WidthGrown (s t : State) : Prop :=
  t.dictSize.toNat = 2 ^ s.codeSize.toNat ∧ s.codeSize.toNat < 12 ∧ t.codeSize.toNat = s.codeSize.toNat + 1

/-- `CLEAR` has run in the code loop. The width it sets is that of `SessionInv.fresh`: there is no predecessor. -/
def ClearedLoop (s t : State) : Prop :=
  t.phase = s.phase ∧ t.mcs = s.mcs ∧ t.lzwState = .cleared ∧ t.prevCode.toNat = t.clearCode.toNat

/-- What may have become of `CODE_SIZE` from `s` to `t`. -/
def WidthRule (s t : State) : Prop :=
  t.codeSize = s.codeSize ∨ (s.phase = .header ∧ t.codeSize.toNat = t.mcs.toNat + 1) ∨
  (s.phase = .lzw ∧ (ClearedLoop s t ∨ WidthGrown s t))

/-! ## Codes -/

/-- After a data code, `u` being the state with its string output and appended. -/
theorem endDataCode_width {s u : State} (c : Code) (hu : u.codeSize = s.codeSize) :
    (endDataCode c u).codeSize = s.codeSize ∨ WidthGrown s (endDataCode c u) := by
  have hcases := endDataCode_codeSize_cases c u
  rw [hu] at hcases
  rcases hcases with ⟨hfull, hlt, e⟩ | ⟨-, e⟩
  · exact .inr ⟨by rw [endDataCode_dictSize]; exact hfull, hlt, e⟩
  · exact .inl (BitVec.eq_of_toNat_eq e)

theorem existingCode_width {c : Code} {s t : State} (h : existingCode c s = .next t) :
    t.codeSize = s.codeSize ∨ WidthGrown s t := by
  obtain ⟨p, -, ⟨-, rfl⟩ | ⟨-, q, -, rfl⟩⟩ := existingCode_next.1 h
  · exact endDataCode_width c (emit_codeSize s p)
  · exact endDataCode_width c (by rw [dictAppend_codeSize, emit_codeSize])

theorem nextIndexCode_width {c : Code} {s t : State} (h : nextIndexCode c s = .next t) :
    t.codeSize = s.codeSize ∨ WidthGrown s t := by
  obtain ⟨q, -, rfl⟩ := nextIndexCode_next.1 h
  exact endDataCode_width c (by rw [dictAppend_codeSize, emit_codeSize])

theorem execClear_clearedLoop {s t : State} (h : execClear s = .next t) : ClearedLoop s t := by
  cases h
  refine ⟨by simp, by simp, by simp, ?_⟩
  rw [widthCheck_prevCode, widthCheck_clearCode]
  exact BitVec.toNat_setWidth_of_le (by decide)

/-- A code in the loop, `r` being the registers it is compared with: `CLEAR`, END or an illegal code, or a data code. -/
theorem exec_decodeCode_width {r : CodeRegs} {c : Code} {s t : State} (h : exec (decodeCode r c) s = .next t) :
    t.codeSize = s.codeSize ∨ ClearedLoop s t ∨ WidthGrown s t := by
  rcases decodeCode_class r c with ⟨e, -⟩ | ⟨e, -⟩ | ⟨e, -⟩ | ⟨-, -, ⟨e, -⟩ | ⟨e, -⟩ | ⟨e, -⟩ | ⟨e, -⟩⟩ <;> rw [e] at h
  · exact .inr (.inl (execClear_clearedLoop h))
  · cases h; exact .inl rfl
  · exact (existingCode_width h).imp_right .inr
  · exact (existingCode_width h).imp_right .inr
  · exact (nextIndexCode_width h).imp_right .inr
  · cases h; exact .inl rfl
  · cases h; exact .inl rfl

/-! ## The elements of a step -/

/-- A min-code-size byte: the width is set when it is accepted, and stays when it is not (41_bit_reader R142). -/
theorem exec_decodeMcs_width {b : Byte} {s t : State} (h : exec (decodeMcs b) s = .next t) :
    t.codeSize = s.codeSize ∨ t.codeSize.toNat = t.mcs.toNat + 1 := by
  unfold decodeMcs at h
  split at h <;> cases h
  · exact .inl rfl
  · next hrange =>
    have hb : 2 ≤ b.toNat ∧ b.toNat ≤ 8 := by simp only [Config.mcsMin, Config.mcsMax] at hrange; omega
    obtain ⟨hmcs, -, -, hwidth, -⟩ := loadMcs_numbers hb s
    exact .inr (by rw [hwidth, hmcs])

theorem exec_framingFormat_codeSize {u s t : State} {b : Byte} (h : exec (framingFormat u b) s = .next t) :
    t.codeSize = s.codeSize := by
  rcases framingFormat_cases u b with ⟨e, -⟩ | ⟨e, -⟩ | ⟨e, -⟩ <;> rw [e] at h <;> cases h <;> rfl

/-- An element of a step: its fetch and its meaning together. -/
theorem element_width {i : Instr} {s t v : State} (hf : fetch s = .instr i t) (he : exec i t = .next v) : WidthRule s v := by
  rcases fetch_instr hf with ⟨hp, b, -, rfl, rfl⟩ | ⟨hp, -, rfl, rfl⟩ | ⟨-, -, b, -, rfl, rfl⟩ | ⟨-, k, -, rfl, rfl⟩ |
    ⟨-, -, rfl, rfl⟩
  · exact (exec_decodeMcs_width he).imp_right fun hw => .inl ⟨hp, hw⟩
  · exact (exec_decodeCode_width he).imp_right fun hw => .inr ⟨hp, hw⟩
  · have e := exec_framingFormat_codeSize he
    exact .inl e
  · rcases execLookup_effect he with ⟨-, rfl⟩ | ⟨-, rfl⟩ <;> exact .inl rfl
  · cases he
    exact .inl rfl

theorem fetch_session {i : Instr} {s t : State} (h : fetch s = .instr i t) :
    t.phase = s.phase ∧ t.mcs = s.mcs ∧ t.codeSize = s.codeSize := by
  rcases fetch_instr h with ⟨-, b, -, -, rfl⟩ | ⟨-, -, -, rfl⟩ | ⟨-, -, b, -, -, rfl⟩ | ⟨-, k, -, -, rfl⟩ | ⟨-, -, -, rfl⟩ <;>
    exact ⟨rfl, rfl, rfl⟩

/-- An element after which the step goes on touches the bit reader only. -/
theorem element_continues_session {i : Instr} {s t v : State} (hf : fetch s = .instr i t) (he : exec i t = .next v)
    (hc : continuesStep i = true) : v.phase = s.phase ∧ v.mcs = s.mcs ∧ v.codeSize = s.codeSize := by
  have h := fetch_session hf
  cases i with
  | blklen | data => cases he; exact h
  | _ => cases hc

/-- The rule reads the phase, the min-code-size and the width of the state before. -/
theorem widthRule_of_session {s u t : State} (h : u.phase = s.phase ∧ u.mcs = s.mcs ∧ u.codeSize = s.codeSize)
    (hw : WidthRule u t) : WidthRule s t := by
  obtain ⟨hp, hm, hc⟩ := h
  rw [WidthRule, ClearedLoop, WidthGrown, hp, hm, hc] at hw
  exact hw

/-- By induction over the elements: those before the last leave the width alone. -/
theorem engineElements_width : ∀ (n : Nat) {s t : State}, engineElements n s = some (.next t) → WidthRule s t
  | 0, s, t, h => by simp [engineElements] at h
  | n + 1, s, t, h => by
    rcases engineElements_next h with ⟨-, rfl⟩ | ⟨i, u, v, hf, he, ⟨hc, hrest⟩ | ⟨-, rfl⟩⟩
    · exact .inl rfl
    · exact widthRule_of_session (element_continues_session hf he hc) (engineElements_width n hrest)
    · exact element_width hf he

/-! ## The step -/

theorem engineTurn_width {s t : State} (h : engineTurn s = .next t) : WidthRule s t := by
  rcases engineTurn_next.1 h with h | ⟨-, rfl⟩
  · exact engineElements_width _ h
  · exact .inl rfl

theorem hostWrite_codeSize {s t : State} {reg : Nat} {v : Word} (hr : ¬ (reg = 0 ∧ v.getLsbD 1 = true))
    (h : hostWrite reg v s = .next t) : t.codeSize = s.codeSize := by
  rcases hostWrite_effect h hr with ⟨e, -⟩ | ⟨-, n, rfl⟩ | ⟨-, i, c, rfl⟩ | ⟨-, b, rfl⟩ | ⟨k, rfl⟩
  · rw [e]
  all_goals rfl

theorem step_width {s t : State} (h : step s = .next t) (hr : ¬ ResetDue s) : WidthRule s t := by
  rcases step_next h with ⟨u, hd, hu⟩ | ⟨reg, v, r, ha, hw⟩ | ⟨reg, r, -, hrd⟩
  · obtain ⟨r, rfl⟩ := engineDue_frame hd
    have hrule := engineTurn_width hu
    exact hrule
  · have e := hostWrite_codeSize (fun ⟨hreg, hv⟩ => hr ⟨v, r, hreg ▸ ha, hv⟩) hw
    exact .inl e
  · rw [hostRead_effect hrd]
    exact .inl rfl

/-- Settles O36: the width rule of the step, where the width that `CLEAR` sets is the one the invariant gives to a state without
a predecessor. -/
theorem widthChangesInThreePlaces : Obligations.WidthChangesInThreePlaces := by
  intro s t hs h hr hne
  have ht : BlockInv t := invKeptByEveryStep s t hs h
  rcases step_width h hr with e | ⟨hp, hw⟩ | ⟨hp, ⟨hpt, hm, hcl, hpred⟩ | hgrown⟩
  · exact absurd e hne
  · exact .inl ⟨hp, hw⟩
  · obtain ⟨-, hwidth⟩ := (sessionInv_of_lzw ht (hpt.trans hp)).fresh hpred
    exact .inr (.inl ⟨hp, hcl, hm ▸ hwidth⟩)
  · exact .inr (.inr ⟨hp, hgrown⟩)

end Sys2Proof.Machine
end

section
/-! SUPPORT. The host commands that write (40_host_commands R120 to R126) and the `CTRL` word that carries three of them (R130). -/

namespace Sys2Proof.Machine

/-! ## Commands legal in every phase -/

/-- Settles O8: RESET builds the state from the reset state, and keeps of the old one the model's own fields only. -/
theorem resetCommand : Obligations.ResetCommand :=
  fun s => ⟨resetBlock s, rfl, rfl⟩

/-- Settles O41: CLOSE sets one flag and tests nothing. -/
theorem closeCommand : Obligations.CloseCommand :=
  fun _ => rfl

/-- Settles O45: SETADDR writes one register and tests nothing. -/
theorem setaddrCommand : Obligations.SetaddrCommand :=
  fun _ _ => rfl

/-- Settles O44: the one test is whether the input is closed. -/
theorem pushCommand : Obligations.PushCommand :=
  fun _ _ => ⟨fun hopen => if_neg (Bool.eq_false_iff.1 hopen), fun hclosed => if_pos hclosed⟩

/-! ## Commands legal in `IDLE` only -/

/-- Settles O42: the test is the rule's own, the bound being `Config.ctMax`. -/
theorem ctsizeCommand : Obligations.CtsizeCommand :=
  fun _ _ => ⟨fun hlegal => if_pos hlegal, fun hillegal => if_neg hillegal⟩

/-- Settles O43: in `IDLE` the command is one write of the packed colour to the table. -/
theorem ctwrCommand : Obligations.CtwrCommand := by
  intro i r g b s
  constructor
  · intro hidle
    exact ⟨_, if_pos hidle, rfl, ⟨packRgb r g b, Memory.read_write_self _ _ _, packRgb_toNat r g b⟩,
      fun a => Memory.read_write_other _ _⟩
  · intro hphase
    exact if_neg hphase

/-! ## START, and the bits of a `CTRL` word -/

/-- The CLOSE that START's operand asks for. -/
theorem setInClosed_if (c : Bool) (s : State) :
    (if c then setInClosed s else s) = { s with inClosed := s.inClosed || c } := by
  cases c
  · simp
  · simp [setInClosed]

theorem startSession_eq (s : State) :
    startSession s = { s with phase := if s.phase = .idle then .header else s.phase } := by
  unfold startSession
  by_cases hidle : s.phase = .idle
  · rw [if_pos hidle, if_pos hidle]
  · rw [if_neg hidle, if_neg hidle]

theorem exec_start (c : Bool) (s : State) :
    exec (.start c) s =
      .next { s with phase := if s.phase = .idle then .header else s.phase, inClosed := s.inClosed || c } := by
  simp only [exec, execStart, setInClosed_if, startSession_eq]

/-- Settles O40, by `exec_start` in each of the two cases of its phase. -/
theorem startCommand : Obligations.StartCommand := by
  intro c s
  rw [exec_start]
  exact ⟨fun hidle => by rw [if_pos hidle], fun hphase => by rw [if_neg hphase]⟩

theorem decodeWrite_start {v : Word} (h1 : v.getLsbD 1 = false) (h0 : v.getLsbD 0 = true) :
    decodeWrite 0 v = .instr (.start (v.getLsbD 2)) := by
  rw [decodeWrite, h1, h0]; rfl

theorem decodeWrite_close {v : Word} (h1 : v.getLsbD 1 = false) (h0 : v.getLsbD 0 = false) (h2 : v.getLsbD 2 = true) :
    decodeWrite 0 v = .instr .close := by
  rw [decodeWrite, h1, h0, h2]; rfl

theorem decodeWrite_noCommand {v : Word} (h1 : v.getLsbD 1 = false) (h0 : v.getLsbD 0 = false)
    (h2 : v.getLsbD 2 = false) : decodeWrite 0 v = .rejected .noCommand := by
  rw [decodeWrite, h1, h0, h2]; rfl

/-- A `CTRL` write without RESET: bit 2 closes the input, and bit 0 starts an idle session. -/
theorem hostWrite_ctrl {v : Word} (h1 : v.getLsbD 1 = false) (s : State) :
    hostWrite 0 v s = .next { s with
      inClosed := s.inClosed || v.getLsbD 2,
      phase := if v.getLsbD 0 = true ∧ s.phase = .idle then .header else s.phase } := by
  cases h0 : v.getLsbD 0
  · cases h2 : v.getLsbD 2
    · simp [hostWrite, decodeWrite_noCommand h1 h0 h2]
    · rw [hostWrite_instr (decodeWrite_close h1 h0 h2), closeCommand]
      simp
  · rw [hostWrite_instr (decodeWrite_start h1 h0), exec_start]
    simp

/-- Settles O46: the write at the head of the agenda is the step, and bit 1 decides between `decodeWrite_reset` and
`hostWrite_ctrl`. -/
theorem ctrlBitsTogether : Obligations.CtrlBitsTogether := by
  intro s v r ha
  rw [step_write ha]
  constructor
  · intro h1
    exact hostWrite_instr (decodeWrite_reset h1) _
  · intro h1
    exact hostWrite_ctrl h1 _

end Sys2Proof.Machine
end

section
/-! SUPPORT. The framing elements, forwards: what the engine does where it needs a byte of the stream, with the byte there,
missing while the input is open, and missing at its end (41_bit_reader R141 to R147). -/

namespace Sys2Proof.Machine

/-! ## Where a byte is needed -/

/-- The engine's next element is a byte of the stream: the header byte, or a framing byte for a code whose bits are not
buffered. -/
def NeedsByte (s : State) : Prop :=
  s.phase = .header ∨ (s.phase = .lzw ∧ s.nbits.toNat < s.codeSize.toNat)

theorem fetch_of_needsByte {s : State} (h : NeedsByte s) : ∃ f, fetch s = fetchByte f s := by
  rcases h with hp | ⟨hp, hw⟩
  · exact ⟨decodeMcs, by simp only [fetch, hp]⟩
  · exact ⟨framingFormat s, by simp only [fetch, hp, if_neg (Nat.not_le_of_lt hw)]⟩

theorem fetch_byteHeld {s : State} (h : NeedsByte s) (hb : s.inp[s.inPos]? = none) (ho : s.inClosed = false) :
    fetch s = .hold := by
  obtain ⟨f, hf⟩ := fetch_of_needsByte h
  exact hf.trans (fetchByte_hold.2 ⟨hb, ho⟩)

theorem fetch_byteEnded {s : State} (h : NeedsByte s) (hb : s.inp[s.inPos]? = none) (hc : s.inClosed = true) :
    fetch s = .eos := by
  obtain ⟨f, hf⟩ := fetch_of_needsByte h
  exact hf.trans (fetchByte_eos.2 ⟨hb, hc⟩)

theorem engineElements_byteHeld (n : Nat) {s : State} (h : NeedsByte s) (hb : s.inp[s.inPos]? = none)
    (ho : s.inClosed = false) : engineElements (n + 1) s = none :=
  engineElements_hold (fetch_byteHeld h hb ho)

theorem engineElements_byteEnded (n : Nat) {s : State} (h : NeedsByte s) (hb : s.inp[s.inPos]? = none)
    (hc : s.inClosed = true) : engineElements (n + 1) s = some (.next (raise .unexpectedEndOfStream 0 s)) :=
  engineElements_eos (fetch_byteEnded h hb hc)

theorem step_byteEnded {s u : State} (hd : EngineDue s u) (h : NeedsByte u) (hb : u.inp[u.inPos]? = none)
    (hc : u.inClosed = true) : step s = .next (raise .unexpectedEndOfStream 0 u) :=
  step_of_engineElements hd (engineElements_byteEnded 4 h hb hc)

/-- An engine step that is not enabled leaves nothing but the turn taken (R141). -/
theorem step_of_engineStep_none {s u : State} (hd : EngineDue s u) (h : engineStep u = none) : step s = .next u :=
  (step_engine hd).trans (engineTurn_next.2 (.inr ⟨h, rfl⟩))

/-! ## The framing bytes of a code step -/

/-- A length byte opens its sub-block and the step goes on. -/
theorem engineElements_lengthByte (n : Nat) {s : State} {b : Byte} (hp : s.phase = .lzw)
    (hw : s.nbits.toNat < s.codeSize.toNat) (hr : s.blkRem = 0) (hb : s.inp[s.inPos]? = some b) (hne : b ≠ 0) :
    engineElements (n + 1) s = engineElements n (openBlock b (advance s)) := by
  have hf := fetch_framing hp hw hb
  rw [framingFormat, if_pos hr, decodeLen, if_neg hne] at hf
  exact engineElements_instr hf rfl

/-- The terminator ends the step and the code loop. -/
theorem engineElements_terminator (n : Nat) {s : State} (hp : s.phase = .lzw) (hw : s.nbits.toNat < s.codeSize.toNat)
    (hr : s.blkRem = 0) (hb : s.inp[s.inPos]? = some 0) :
    engineElements (n + 1) s = some (.next (endCodeLoop (setSoftEnd (advance s)))) := by
  have hf := fetch_framing hp hw hb
  rw [framingFormat, if_pos hr, decodeLen, if_pos rfl] at hf
  exact engineElements_instr hf rfl

/-- The format the cursor is at, by `BLK_REM`, is the decoder's (30_encoding R93). -/
theorem decode_framing (s : State) (b : Byte) :
    decode (if s.blkRem = 0 then .lenByte else .dataByte) (b.setWidth 32) = .instr (framingFormat s b) := by
  unfold framingFormat
  split <;> simp only [decode, wordByte_setWidth]

/-- Settles O16: the framing byte is a terminator, a length byte or a data byte, each with its own element lemma; a buffered
code is read by `engineElements_code_numbers`. -/
theorem codeStepReadsCode : Obligations.CodeStepReadsCode := by
  refine ⟨?framing, ?ended, fun n s hp h12 hw => engineElements_code_numbers n hp h12 hw⟩
  case framing =>
    intro n s b i hp hw hb hi
    rw [decode_framing, Decoded.instr.injEq] at hi
    subst hi
    rcases framingFormat_cases s b with ⟨e, hr, rfl⟩ | ⟨e, hr, hne⟩ | ⟨e, hr⟩ <;> rw [e]
    · exact ⟨fun _ => engineElements_terminator n hp hw hr hb, fun h => absurd rfl h⟩
    · exact ⟨nofun, fun _ => ⟨_, rfl, engineElements_lengthByte n hp hw hr hb hne⟩⟩
    · exact ⟨nofun, fun _ => ⟨_, rfl, engineElements_dataByte hp hw hr hb⟩⟩
  case ended =>
    intro n s hp hw hb hc
    exact engineElements_byteEnded n (.inr ⟨hp, hw⟩) hb hc

/-- Settles O18: the fetch holds where the byte is missing, so the step is not enabled at any of its elements; the length byte
that was read is part of that step. -/
theorem heldStepConsumesNothing : Obligations.HeldStepConsumesNothing := by
  refine ⟨fun s b hb => inByte_byte.2 ⟨hb, rfl⟩, fun s hb hc => inByte_eos.2 ⟨hb, hc⟩,
    fun s hb ho => inByte_hold.2 ⟨hb, ho⟩, fun n s hb ho h => engineElements_byteHeld n h hb ho,
    fun s u hd h => step_of_engineStep_none hd h, ?lengthByte⟩
  intro s u n hd ho hp hw hr hb hne hnext
  have hheld : engineElements 4 (openBlock n (advance u)) = none :=
    engineElements_byteHeld 3 (.inr ⟨hp, hw⟩) hnext ho
  exact step_of_engineStep_none hd ((engineElements_lengthByte 4 hp hw hr hb hne).trans hheld)

/-- Settles O19: the fetch meets the end of the input, at the first element or after a length byte. -/
theorem endOfInputRaises : Obligations.EndOfInputRaises := by
  refine ⟨fun s u hd hc hb h => step_byteEnded hd h hb hc, ?lengthByte,
    fun n s hc hb hp hw => engineElements_byteEnded n (.inr ⟨hp, hw⟩) hb hc⟩
  intro s u n hd hc hp hw hr hb hne hnext
  have hended := engineElements_byteEnded 3 (s := openBlock n (advance u)) (.inr ⟨hp, hw⟩) hnext hc
  exact step_of_engineElements hd ((engineElements_lengthByte 4 hp hw hr hb hne).trans hended)

/-! ## The framing instructions -/

/-- Settles O22: the code step that finds the terminator is that one element. -/
theorem termEndsLoopSoftly : Obligations.TermEndsLoopSoftly :=
  ⟨fun _ => rfl, fun _ _ hd hp hw hr hb => step_of_engineElements hd (engineElements_terminator 4 hp hw hr hb)⟩

/-- Settles O23: the meaning is one register write. -/
theorem blklenOpensBlock : Obligations.BlklenOpensBlock :=
  fun _ _ => rfl

/-- Settles O24: within 19 bits the byte's bits do not overlap those buffered, so they add up (`acc_bufferByte`). -/
theorem dataBuffersByte : Obligations.DataBuffersByte := by
  intro x s hrem hn hacc
  refine ⟨bufferByte x s, rfl, ?_, ?_, acc_bufferByte x hacc hn, rfl⟩
  · rw [bufferByte_blkRem]
    bv_omega
  · rw [bufferByte_nbits]
    bv_omega

/-! ## The header step (R142) -/

/-- The root cells of the dictionary that the header step has reset. -/
theorem dictRead_loadMcs {n : Byte} (hn : 2 ≤ n.toNat ∧ n.toNat ≤ 8) (s : State) {c : Code} (hc : c.toNat < 2 ^ n.toNat) :
    dictRead (loadMcs n s) c = some { first := c.setWidth 8, rest := [] } := by
  have h := loadMcs_fresh hn s
  obtain ⟨-, hclear, -⟩ := loadMcs_numbers hn s
  exact (dictInv_rootCells h.dict_eq h.size_eq h.end_eq (clearCode_range (dictFresh_regs h)).2).roots c (hclear ▸ hc)

/-- Settles O21: the header byte is the step's one element; the registers of a legal one are those of `loadMcs_numbers`. -/
theorem headerStepRule : Obligations.HeaderStepRule := by
  refine ⟨?byte, ?ended, ?invalid, ?legal⟩
  case byte =>
    intro s u b hd hp hb
    exact step_single hd (fetch_header hp hb) (continuesStep_decodeMcs b)
  case ended =>
    intro s u hd hp hb hc
    exact step_byteEnded hd (.inl hp) hb hc
  case invalid =>
    intro b s
    exact ⟨_, rfl, rfl, BitVec.toNat_setWidth_of_le (by decide), rfl, rfl⟩
  case legal =>
    intro n s h2 h8
    obtain ⟨hmcs, hclear, hend, hwidth, hsize, hprev⟩ := loadMcs_numbers ⟨h2, h8⟩ s
    exact ⟨loadMcs n s, rfl, hmcs, hclear, hend, hwidth, hsize, hprev, fun c hc => dictRead_loadMcs ⟨h2, h8⟩ s hc,
      rfl, rfl, rfl⟩

end Sys2Proof.Machine
end

section
/-! SUPPORT. The bound on the elements of a code step (41_bit_reader R150), in every state: each element after which the step
goes on uses up one of `elementsLeft`. -/

namespace Sys2Proof.Machine

theorem elementsLeft_of_continuesStep {i : Instr} {s t v : State} (hf : fetch s = .instr i t) (he : exec i t = .next v)
    (hc : continuesStep i = true) : elementsLeft v + 1 ≤ elementsLeft s := by
  rcases fetch_instr hf with ⟨-, b, -, rfl, -⟩ | ⟨-, -, rfl, -⟩ | ⟨-, hw, b, -, rfl, rfl⟩ | ⟨-, k, -, rfl, -⟩ | ⟨-, -, rfl, -⟩
  · simp [continuesStep_decodeMcs] at hc
  · simp [continuesStep_decodeCode] at hc
  · rcases framingFormat_cases s b with ⟨e, -⟩ | ⟨e, hr, hne⟩ | ⟨e, hr⟩ <;> rw [e] at hc he <;> cases he
    · cases hc
    · exact (elementsLeft_openBlock hw hr hne).le
    · exact elementsLeft_bufferByte b hw hr
  · cases hc
  · cases hc

/-- By induction over the elements, of which there are enough. -/
theorem engineElements_not_fault {n : Nat} {s : State} (hleft : elementsLeft s ≤ n) (r : Fault) :
    engineElements n s ≠ some (.fault r) := by
  induction n generalizing s with
  | zero => exact absurd hleft (Nat.not_le_of_lt (elementsLeft_pos s))
  | succ n ih =>
    cases hf : fetch s with
    | hold => simp [engineElements_hold hf]
    | eos => simp [engineElements_eos hf]
    | instr i t =>
      cases he : exec i t with
      | next v =>
        rw [engineElements_instr hf he]
        split
        · next hc =>
          have := elementsLeft_of_continuesStep hf he hc
          exact ih (by omega)
        · simp
      | fault f => exact absurd he (exec_not_fault i t f)
      | refused f => simp [engineElements, hf, he]

theorem engineTurn_not_fault (s : State) (r : Fault) : engineTurn s ≠ .fault r := by
  have hnot := engineElements_not_fault (elementsLeft_le s) r
  unfold engineTurn
  split
  · next o ho => exact fun h => hnot (ho.trans (congrArg some h))
  · simp

/-- The move that is due is the engine's turn, a host write or a host read. -/
theorem agenda_cases (s : State) :
    (∃ u, EngineDue s u) ∨ (∃ reg v r, s.agenda = .write reg v :: r) ∨ (∃ reg r, s.agenda = .read reg :: r) := by
  match ha : s.agenda with
  | [] => exact .inl ⟨s, .inl ⟨ha, rfl⟩⟩
  | .engine :: r => exact .inl ⟨_, .inr ⟨r, ha, rfl⟩⟩
  | .write reg v :: r => exact .inr (.inl ⟨reg, v, r, rfl⟩)
  | .read reg :: r => exact .inr (.inr ⟨reg, r, rfl⟩)

/-- Settles O12: the engine's turn has elements enough, and a host access completes. -/
theorem stepNeverFaults : Obligations.StepNeverFaults := by
  intro s f
  rcases agenda_cases s with ⟨u, hd⟩ | ⟨reg, v, r, ha⟩ | ⟨reg, r, ha⟩
  · rw [step_engine hd]
    exact engineTurn_not_fault u f
  · obtain ⟨t, ht⟩ := hostWrite_completes reg v { s with agenda := r }
    simp [step_write ha, ht]
  · obtain ⟨t, ht⟩ := hostRead_completes reg { s with agenda := r }
    simp [step_read ha, ht]

end Sys2Proof.Machine
end

section
/-! SUPPORT. When the bit reader's registers rest (41_bit_reader R149): under every code but for the code's own bits, under the
pixel and finishing steps, and under the host's accesses. -/

namespace Sys2Proof.Machine

/-- The bit reader's registers of `t` are those of `s`. -/
def SameReader (s t : State) : Prop :=
  t.inPos = s.inPos ∧ t.blkRem = s.blkRem ∧ t.acc = s.acc ∧ t.nbits = s.nbits

theorem sameReader_refl (s : State) : SameReader s s := ⟨rfl, rfl, rfl, rfl⟩

theorem exec_decodeCode_sameReader {r : CodeRegs} {c : Code} {s t : State} (h : exec (decodeCode r c) s = .next t) :
    SameReader s t := by
  rcases exec_decodeCode_effect h with e | e | e | e <;> rw [e] <;> exact ⟨rfl, rfl, rfl, rfl⟩

theorem hostWrite_sameReader {s t : State} {reg : Nat} {v : Word} (hr : ¬ (reg = 0 ∧ v.getLsbD 1 = true))
    (h : hostWrite reg v s = .next t) : SameReader s t := by
  rcases hostWrite_effect h hr with ⟨e, -⟩ | ⟨-, n, e⟩ | ⟨-, i, c, e⟩ | ⟨-, b, e⟩ | ⟨k, e⟩ <;> rw [e] <;>
    exact ⟨rfl, rfl, rfl, rfl⟩

/-- A code whose bits are buffered is the whole step: only its own bits leave the bit reader. -/
theorem engineTurn_buffered {s t : State} (hp : s.phase = .lzw) (hw : s.codeSize.toNat ≤ s.nbits.toNat)
    (h : engineTurn s = .next t) : SameReader (dropCode s) t := by
  rw [engineTurn_single (fetch_code hp hw) (continuesStep_decodeCode _ _)] at h
  exact exec_decodeCode_sameReader h

/-- Outside `HEADER` and `LZW` the engine's turn is a pixel step, the finishing step, or none. -/
theorem engineTurn_outsideLoop {s t : State} (hh : s.phase ≠ .header) (hl : s.phase ≠ .lzw) (h : engineTurn s = .next t) :
    SameReader s t := by
  cases hf : fetch s with
  | hold =>
    cases (engineTurn_hold hf).symm.trans h
    exact sameReader_refl s
  | eos => exact (fetch_eos hf).1.elim (fun hp => absurd hp hh) fun ⟨hp, _⟩ => absurd hp hl
  | instr i u =>
    rcases fetch_instr hf with ⟨hp, -⟩ | ⟨hp, -⟩ | ⟨hp, -⟩ | ⟨-, k, -, rfl, rfl⟩ | ⟨-, -, rfl, rfl⟩
    · exact absurd hp hh
    · exact absurd hp hl
    · exact absurd hp hl
    · rw [engineTurn_single hf rfl] at h
      rcases execLookup_effect h with ⟨-, rfl⟩ | ⟨-, rfl⟩ <;> exact ⟨rfl, rfl, rfl, rfl⟩
    · cases (engineTurn_single hf rfl).symm.trans h
      exact ⟨rfl, rfl, rfl, rfl⟩

/-- The rule of R149 from `s` to `t`: laziness in the loop, and rest outside it. -/
def ReaderRests (s t : State) : Prop :=
  (s.phase = .lzw → s.codeSize.toNat ≤ s.nbits.toNat → t.inPos = s.inPos ∧ t.blkRem = s.blkRem) ∧
  (s.phase ≠ .header → s.phase ≠ .lzw → SameReader s t)

theorem readerRests_of_sameReader {s t : State} (h : SameReader s t) : ReaderRests s t := by
  have ⟨hpos, hrem, _⟩ := h
  exact ⟨fun _ _ => ⟨hpos, hrem⟩, fun _ _ => h⟩

theorem engineTurn_readerRests {s t : State} (h : engineTurn s = .next t) : ReaderRests s t := by
  constructor
  · intro hp hw
    obtain ⟨hpos, hrem, -⟩ := engineTurn_buffered hp hw h
    exact ⟨hpos, hrem⟩
  · intro hh hl
    exact engineTurn_outsideLoop hh hl h

/-- Settles O56: by the move that is due; the agenda is not part of the rule. -/
theorem consumptionEndsWithLoop : Obligations.ConsumptionEndsWithLoop := by
  intro s t h hr
  rcases step_next h with ⟨u, hd, hu⟩ | ⟨reg, v, r, ha, hw⟩ | ⟨reg, r, -, hrd⟩
  · obtain ⟨r, rfl⟩ := engineDue_frame hd
    have hrests := engineTurn_readerRests hu
    exact hrests
  · have hsame := hostWrite_sameReader (fun ⟨hreg, hv⟩ => hr ⟨v, r, hreg ▸ ha, hv⟩) hw
    exact readerRests_of_sameReader (s := s) hsame
  · rw [hostRead_effect hrd]
    exact readerRests_of_sameReader (s := s) (t := { s with agenda := r, rdata := t.rdata }) ⟨rfl, rfl, rfl, rfl⟩

end Sys2Proof.Machine
end

section
/-! SUPPORT. The codes (42_lzw_codes): what the width check, the append and each code's meaning leave, stated forwards; then
what the invariant adds with a full dictionary and without a predecessor. -/

namespace Sys2Proof.Machine

/-! ## The width check and the append (R162, R172) -/

theorem widthCheck_widened (s : State) : Widened s (widthCheck s) := by
  unfold Widened
  rcases widthCheck_cases s with ⟨hgrow, e⟩ | ⟨hstay, e⟩ <;> rw [e]
  · refine ⟨fun _ => ?_, fun h => absurd hgrow h⟩
    have hw := hgrow.2
    show (s.codeSize + 1).toNat = _
    bv_omega
  · exact ⟨fun h => absurd h hstay, fun _ => rfl⟩

/-- Settles O32, by the two cases of the check. -/
theorem widthCheckRule : Obligations.WidthCheckRule :=
  fun s => ⟨widthCheck_widened s, widthCheck_frame s⟩

theorem dictAppend_full {s : State} (h : 4096 ≤ s.dictSize.toNat) (e : Str) : dictAppend e s = s := by
  rcases dictAppend_cases e s with ⟨hroom, -⟩ | ⟨-, e⟩
  · exact absurd hroom (Nat.not_lt_of_le h)
  · exact e

theorem dictAppend_appended (e : Str) (s : State) : Appended e s (dictAppend e s) := by
  unfold Appended
  rcases dictAppend_cases e s with ⟨hroom, he⟩ | ⟨hfull, he⟩ <;> rw [he]
  · exact ⟨fun _ => ⟨dictSize_succ hroom, Memory.read_write_self _ _ _, fun a => Memory.read_write_other _ _⟩,
      fun hfull => absurd hroom (Nat.not_lt_of_le hfull)⟩
  · exact ⟨fun hroom => absurd hroom (Nat.not_lt_of_le hfull), fun _ => ⟨rfl, rfl⟩⟩

/-- Settles O33, by the two cases of the append. -/
theorem dictAppendRule : Obligations.DictAppendRule :=
  fun p s => ⟨dictAppend_appended p s, dictAppend_frame p s⟩

/-- The cell appended is a data entry when its number is no control code. -/
theorem appended_dictRead {e : Str} {s t : State} {c : Code} (h : Appended e s t) (hc : c.toNat = s.dictSize.toNat)
    (hclear : c.toNat ≠ t.clearCode.toNat) (hend : c.toNat ≠ t.endCode.toNat) : dictRead t c = some e := by
  obtain ⟨hsize, hread, -⟩ := h.1 (hc ▸ c.isLt)
  exact dictRead_some.2 ⟨isDataEntry_iff.2 ⟨by omega, hclear, hend⟩, hc ▸ hread⟩

/-! ## The data codes (R167 to R169) -/

/-- A data code after its output and append: `u` is `s` with `p` output and the dictionary settled. -/
theorem endDataCode_effect {s u : State} {p : Str} (c : Code)
    (hu : u = { s with idx := s.idx ++ p.toList, dict := u.dict, dictSize := u.dictSize }) :
    DataCodeEffect c p s (endDataCode c u) := by
  have hwidened : Widened s (endDataCode c u) := by
    have h : Widened u (endDataCode c u) := widthCheck_widened { u with prevCode := c, lzwState := .decoding }
    have hw : u.codeSize = s.codeSize := by rw [hu]
    rwa [Widened, hw] at h
  refine ⟨?_, endDataCode_prevCode u c, endDataCode_lzwState u c, hwidened, ?_⟩
  · rw [endDataCode_idx, hu]
  · rw [endDataCode_frame, hu]

theorem endDataCode_emit_effect (c : Code) (p : Str) (s : State) : DataCodeEffect c p s (endDataCode c (emit p s)) :=
  endDataCode_effect c rfl

theorem endDataCode_append_effect (c : Code) (p e : Str) (s : State) :
    DataCodeEffect c p s (endDataCode c (dictAppend e (emit p s))) :=
  endDataCode_effect c (dictAppend_frame e (emit p s))

theorem endDataCode_appended (c : Code) (p e : Str) (s : State) :
    Appended e s (endDataCode c (dictAppend e (emit p s))) := by
  unfold Appended
  rw [endDataCode_dictSize, endDataCode_dict]
  exact dictAppend_appended e (emit p s)

/-- The code of an existing entry, ROOT or ENTRY, without a predecessor and with one. -/
theorem existingCode_rule {s : State} {c : Code} {p : Str} (hc : dictRead s c = some p) :
    (s.prevCode.toNat = s.clearCode.toNat → ∃ t, existingCode c s = .next t ∧ DataCodeEffect c p s t ∧
      t.dict = s.dict ∧ t.dictSize = s.dictSize) ∧
    (∀ q, s.prevCode.toNat ≠ s.clearCode.toNat → dictRead s s.prevCode = some q →
      ∃ t, existingCode c s = .next t ∧ DataCodeEffect c p s t ∧ Appended (q.snoc p.first) s t) := by
  refine ⟨fun hnone => ?_, fun q hpred hq => ?_⟩
  · have hno : hasPred s = false := by simp [hasPred, hnone]
    exact ⟨_, existingCode_next.2 ⟨p, hc, .inl ⟨hno, rfl⟩⟩, endDataCode_emit_effect c p s, endDataCode_dict _ c,
      endDataCode_dictSize _ c⟩
  · exact ⟨_, existingCode_next.2 ⟨p, hc, .inr ⟨hasPred_iff.2 hpred, q, hq, rfl⟩⟩, endDataCode_append_effect c p _ s,
      endDataCode_appended c p _ s⟩

/-- Settles O27: the meaning of ROOT is that of an existing entry's code. -/
theorem rootOutputsAndAppends : Obligations.RootOutputsAndAppends :=
  fun _ _ _ _ hp => existingCode_rule hp

/-- Settles O28: so is the meaning of ENTRY. -/
theorem entryOutputsAndAppends : Obligations.EntryOutputsAndAppends :=
  fun _ _ _ _ _ hp => existingCode_rule hp

/-- Settles O29: a code below 4096 that equals the size finds room, so the cell appended is its own. -/
theorem kwkwkOutputsAndAppends : Obligations.KwkwkOutputsAndAppends := by
  intro s c q hc _ hq hend hsize
  have happ := endDataCode_appended c (q.snoc q.first) (q.snoc q.first) s
  refine ⟨_, nextIndexCode_next.2 ⟨q, hq, rfl⟩, endDataCode_append_effect c _ _ s, happ,
    appended_dictRead happ hc ?_ ?_⟩
  · simp only [endDataCode_clearCode, dictAppend_clearCode, emit_clearCode]
    omega
  · simp only [endDataCode_endCode, dictAppend_endCode, emit_endCode]
    omega

/-! ## Cells that hold no string (93_implementation_defined U1) -/

theorem existingCode_refused {s : State} {c : Code} (h : dictRead s c = none) :
    existingCode c s = .refused .dictCellUndefined := by
  simp only [existingCode, h]

theorem existingCode_refused_pred {s : State} (c : Code) (hpred : hasPred s = true) (h : dictRead s s.prevCode = none) :
    existingCode c s = .refused .dictCellUndefined := by
  cases hc : dictRead s c with
  | none => exact existingCode_refused hc
  | some p => simp only [existingCode, hc, hpred, if_true, h]

theorem nextIndexCode_refused {s : State} (c : Code) (h : dictRead s s.prevCode = none) :
    nextIndexCode c s = .refused .dictCellUndefined := by
  simp only [nextIndexCode, h]

/-- Settles O30: ROOT and ENTRY read the code's cell and a predecessor's, KWKWK the predecessor's. -/
theorem undefinedCellsRefuse : Obligations.UndefinedCellsRefuse := by
  intro s c
  refine ⟨fun h => ?code, fun h hpred => ?pred, nextIndexCode_refused c⟩
  case code => exact ⟨existingCode_refused h, existingCode_refused h⟩
  case pred =>
    have hrefused := existingCode_refused_pred c (hasPred_iff.2 hpred) h
    exact ⟨hrefused, hrefused⟩

/-! ## CLEAR, END and the illegal codes (R165, R166, R170, R171) -/

/-- What `CLEAR` leaves before the width check. -/
def clearedState (s : State) : State :=
  { dictReset s with codeSize := s.mcs + 1, prevCode := s.clearCode.setWidth 12, lzwState := .cleared }

theorem clearedState_fresh {s : State} (hm : 2 ≤ s.mcs.toNat ∧ s.mcs.toNat ≤ 8) (hc : s.clearCode.toNat = 2 ^ s.mcs.toNat)
    (he : s.endCode.toNat = s.clearCode.toNat + 1) : DictFresh (clearedState s) := by
  refine ⟨hm, hc, he, ?_, ?_, BitVec.toNat_setWidth_of_le (by decide), rfl⟩
  · show (s.mcs + 1).toNat = s.mcs.toNat + 1
    bv_omega
  · show (s.clearCode.setWidth 13 + 2).toNat = s.clearCode.toNat + 2
    bv_omega

/-- The width check of `CLEAR` never fires (R164). -/
theorem exec_clear {s : State} (h : DictFresh (clearedState s)) : exec .clear s = .next (clearedState s) :=
  congrArg Host.Outcome.next (widthCheck_dictFresh h)

theorem dictFresh_dictInv {s : State} (h : DictFresh s) : DictInv s :=
  dictInv_rootCells h.dict_eq h.size_eq h.end_eq (clearCode_range (dictFresh_regs h)).2

/-- Settles O25: CLEAR leaves a freshly reset dictionary, whose cells are the roots. -/
theorem clearRestoresRoots : Obligations.ClearRestoresRoots := by
  intro s h2 h8 hc he
  have hfresh := clearedState_fresh ⟨h2, h8⟩ hc he
  exact ⟨_, exec_clear hfresh, hfresh.size_eq, hfresh.width_eq, hfresh.prev_eq, rfl, (dictFresh_dictInv hfresh).roots, rfl⟩

/-- Settles O26: the meaning is these four writes. -/
theorem endEndsLoop : Obligations.EndEndsLoop :=
  fun _ => rfl

/-- Settles O31: both codes are fault entry with the code as its information, which 16 bits hold. -/
theorem illegalCodesRaise : Obligations.IllegalCodesRaise :=
  fun c s => ⟨raise .invalidCode (c.setWidth 16) s, rfl, rfl, rfl, BitVec.toNat_setWidth_of_le (by decide), rfl, rfl⟩

/-! ## The classes of a code under the invariant (R173, R176) -/

theorem codeRegs_legal {s : State} (h : RegsInv s) : (codeRegs s).legal s.codeSize = true := by
  obtain ⟨h4, h256⟩ := clearCode_range h
  obtain ⟨hmcs, -⟩ := h.mcs_range
  obtain ⟨hwidth, h12⟩ := h.width_range
  obtain ⟨hsize, hmax⟩ := h.size_range
  exact decide_eq_true ⟨by omega, h12, h4, h256, h.end_eq, hsize, hmax⟩

/-- Settles O35: without a predecessor the dictionary is freshly reset, so no code lies between `END` and its size. -/
theorem onlyRootsWithoutPredecessor : Obligations.OnlyRootsWithoutPredecessor := by
  intro s h hp hnone c
  obtain ⟨hregs, -, -, hfresh, -, -⟩ := sessionInv_of_lzw h hp
  have hend := hregs.end_eq
  obtain ⟨hsize, -⟩ := hfresh hnone
  obtain ⟨-, -, -, hentry, hkwkwk, -, -⟩ := codeClassConditions s.codeSize (codeRegs s) c (codeRegs_legal hregs)
  refine ⟨fun e => ?entry, fun e => (hkwkwk.1 e).2 hnone⟩
  case entry =>
    have hbetween : s.endCode.toNat < c.toNat ∧ c.toNat < s.dictSize.toNat := hentry.1 e
    omega

/-- With 4096 entries the tests for a code at or beyond the size never fire. -/
theorem decodeCode_full {r : CodeRegs} (h : r.dictSize.toNat = 4096) (c : Code) :
    decodeCode r c = .clear ∨ decodeCode r c = .endOfInfo ∨ decodeCode r c = .root c ∨ decodeCode r c = .entry c := by
  have hc := c.isLt
  rcases decodeCode_class r c with ⟨e, -⟩ | ⟨e, -⟩ | ⟨e, -⟩ | ⟨-, -, ⟨e, -⟩ | ⟨-, hn, -⟩ | ⟨-, hn, -⟩ | ⟨-, hn⟩⟩
  · exact .inl e
  · exact .inr (.inl e)
  · exact .inr (.inr (.inl e))
  · exact .inr (.inr (.inr e))
  all_goals omega

/-- With a full dictionary an existing entry's code outputs its string and appends nothing. -/
theorem existingCode_full {s : State} {c : Code} {p : Str} (hfull : 4096 ≤ s.dictSize.toNat) (hc : dictRead s c = some p)
    (hpred : hasPred s = true → ∃ q, dictRead s s.prevCode = some q) :
    existingCode c s = .next (endDataCode c (emit p s)) := by
  cases hp : hasPred s
  · exact existingCode_next.2 ⟨p, hc, .inl ⟨hp, rfl⟩⟩
  · obtain ⟨q, hq⟩ := hpred hp
    exact existingCode_next.2 ⟨p, hc, .inr ⟨hp, q, hq, by rw [dictAppend_full (s := emit p s) hfull]⟩⟩

theorem dictRead_prevCode {s : State} (h : SessionInv s) (hp : hasPred s = true) : ∃ q, dictRead s s.prevCode = some q := by
  obtain ⟨q, hq, -⟩ := h.dict.entries _ (hasPred_entry h hp)
  exact ⟨q, hq⟩

/-- At the greatest width the width check does nothing. -/
theorem endDataCode_maxWidth {s : State} (h : s.codeSize.toNat = 12) (c : Code) :
    endDataCode c s = { s with prevCode := c, lzwState := .decoding } := by
  rcases widthCheck_cases { s with prevCode := c, lzwState := .decoding } with ⟨⟨-, hlt⟩, -⟩ | ⟨-, e⟩
  · exact absurd h (Nat.ne_of_lt hlt)
  · exact e

/-! ## What a step does to the size of a full dictionary (R176) -/

/-- The size stays, or `CLEAR` has set it to that of the roots and the two control codes. -/
def SizeKeptOrCleared (s t : State) : Prop :=
  t.dictSize = s.dictSize ∨ (t.lzwState = .cleared ∧ t.dictSize = s.clearCode.setWidth 13 + 2)

theorem existingCode_fullSize {c : Code} {s t : State} (hfull : 4096 ≤ s.dictSize.toNat) (h : existingCode c s = .next t) :
    t.dictSize = s.dictSize := by
  obtain ⟨p, -, ⟨-, rfl⟩ | ⟨-, q, -, rfl⟩⟩ := existingCode_next.1 h
  · exact endDataCode_dictSize _ c
  · rw [endDataCode_dictSize, dictAppend_full (s := emit p s) hfull, emit_dictSize]

theorem nextIndexCode_fullSize {c : Code} {s t : State} (hfull : 4096 ≤ s.dictSize.toNat) (h : nextIndexCode c s = .next t) :
    t.dictSize = s.dictSize := by
  obtain ⟨q, -, rfl⟩ := nextIndexCode_next.1 h
  rw [endDataCode_dictSize, dictAppend_full (s := emit _ s) hfull, emit_dictSize]

theorem exec_decodeCode_fullSize {r : CodeRegs} {c : Code} {s t : State} (hfull : 4096 ≤ s.dictSize.toNat)
    (h : exec (decodeCode r c) s = .next t) : SizeKeptOrCleared s t := by
  rcases decodeCode_class r c with ⟨e, -⟩ | ⟨e, -⟩ | ⟨e, -⟩ | ⟨-, -, ⟨e, -⟩ | ⟨e, -⟩ | ⟨e, -⟩ | ⟨e, -⟩⟩ <;> rw [e] at h
  · cases h
    exact .inr ⟨widthCheck_lzwState _, widthCheck_dictSize _⟩
  · cases h; exact .inl rfl
  · exact .inl (existingCode_fullSize hfull h)
  · exact .inl (existingCode_fullSize hfull h)
  · exact .inl (nextIndexCode_fullSize hfull h)
  · cases h; exact .inl rfl
  · cases h; exact .inl rfl

theorem exec_framingFormat_dictSize {u s t : State} {b : Byte} (h : exec (framingFormat u b) s = .next t) :
    t.dictSize = s.dictSize := by
  rcases framingFormat_cases u b with ⟨e, -⟩ | ⟨e, -⟩ | ⟨e, -⟩ <;> rw [e] at h <;> cases h <;> rfl

/-- An element of a step in the code loop: its fetch and its meaning together. -/
theorem element_fullSize {i : Instr} {s t v : State} (hp : s.phase = .lzw) (hfull : 4096 ≤ s.dictSize.toNat)
    (hf : fetch s = .instr i t) (he : exec i t = .next v) : SizeKeptOrCleared s v := by
  rcases fetch_instr hf with ⟨hp', -⟩ | ⟨-, -, rfl, rfl⟩ | ⟨-, -, b, -, rfl, rfl⟩ | ⟨hp', -⟩ | ⟨hp', -⟩
  · simp [hp] at hp'
  · have hrule := exec_decodeCode_fullSize (s := dropCode s) hfull he
    exact hrule
  · have e := exec_framingFormat_dictSize he
    exact .inl e
  · simp [hp] at hp'
  · simp [hp] at hp'

theorem fetch_size {i : Instr} {s t : State} (h : fetch s = .instr i t) :
    t.clearCode = s.clearCode ∧ t.dictSize = s.dictSize := by
  rcases fetch_instr h with ⟨-, b, -, -, rfl⟩ | ⟨-, -, -, rfl⟩ | ⟨-, -, b, -, -, rfl⟩ | ⟨-, k, -, -, rfl⟩ | ⟨-, -, -, rfl⟩ <;>
    exact ⟨rfl, rfl⟩

/-- An element after which the step goes on touches the bit reader only. -/
theorem element_continues_size {i : Instr} {s t v : State} (hf : fetch s = .instr i t) (he : exec i t = .next v)
    (hc : continuesStep i = true) : v.clearCode = s.clearCode ∧ v.dictSize = s.dictSize := by
  have h := fetch_size hf
  cases i with
  | blklen | data => cases he; exact h
  | _ => cases hc

/-- By induction over the elements: those before the last leave the size and the clear code alone. -/
theorem engineElements_fullSize : ∀ (n : Nat) {s t : State}, s.phase = .lzw → 4096 ≤ s.dictSize.toNat →
    engineElements n s = some (.next t) → SizeKeptOrCleared s t
  | 0, s, t, _, _, h => by simp [engineElements] at h
  | n + 1, s, t, hp, hfull, h => by
    rcases engineElements_next h with ⟨-, rfl⟩ | ⟨i, u, v, hf, he, ⟨hc, hrest⟩ | ⟨-, rfl⟩⟩
    · exact .inl rfl
    · obtain ⟨hphase, -, -⟩ := element_continues_session hf he hc
      obtain ⟨hclear, hsize⟩ := element_continues_size hf he hc
      have hrule := engineElements_fullSize n (hphase.trans hp) (hsize ▸ hfull) hrest
      rwa [SizeKeptOrCleared, hclear, hsize] at hrule
    · exact element_fullSize hp hfull hf he

theorem hostWrite_dictSize {s t : State} {reg : Nat} {v : Word} (hr : ¬ (reg = 0 ∧ v.getLsbD 1 = true))
    (h : hostWrite reg v s = .next t) : t.dictSize = s.dictSize := by
  rcases hostWrite_effect h hr with ⟨e, -⟩ | ⟨-, n, rfl⟩ | ⟨-, i, c, rfl⟩ | ⟨-, b, rfl⟩ | ⟨k, rfl⟩
  · rw [e]
  all_goals rfl

theorem engineTurn_fullSize {s t : State} (hp : s.phase = .lzw) (hfull : 4096 ≤ s.dictSize.toNat)
    (h : engineTurn s = .next t) : SizeKeptOrCleared s t := by
  rcases engineTurn_next.1 h with h | ⟨-, rfl⟩
  · exact engineElements_fullSize _ hp hfull h
  · exact .inl rfl

theorem step_fullSize {s t : State} (hp : s.phase = .lzw) (hfull : 4096 ≤ s.dictSize.toNat) (h : step s = .next t)
    (hr : ¬ ResetDue s) : SizeKeptOrCleared s t := by
  rcases step_next h with ⟨u, hd, hu⟩ | ⟨reg, v, r, ha, hw⟩ | ⟨reg, r, -, hrd⟩
  · obtain ⟨r, rfl⟩ := engineDue_frame hd
    have hrule := engineTurn_fullSize (s := { s with agenda := r }) hp hfull hu
    exact hrule
  · have e := hostWrite_dictSize (fun ⟨hreg, hv⟩ => hr ⟨v, r, hreg ▸ ha, hv⟩) hw
    exact .inl e
  · rw [hostRead_effect hrd]
    exact .inl rfl

/-- Settles O34: the full size fills the width, which is then 12; the append and the width check do nothing; and the size changes
by `step_fullSize`. -/
theorem fullDictionaryAcceptsEveryCode : Obligations.FullDictionaryAcceptsEveryCode := by
  intro s h hp hfull
  have hs := sessionInv_of_lzw h hp
  have hwidth : s.codeSize.toNat = 12 := by
    obtain ⟨-, hmax⟩ := hs.regs.width_range
    have hpow : 2 ^ s.codeSize.toNat ≤ 2 ^ 12 := Nat.pow_le_pow_right (by decide) hmax
    have hle := hs.regs.size_le
    exact hs.regs.size_full (by omega)
  refine ⟨hwidth, decodeCode_full (r := codeRegs s) hfull, fun c p hc => ?codes, fun t ht hr => ?size⟩
  case codes =>
    have he := existingCode_full hfull.ge hc (dictRead_prevCode hs)
    rw [endDataCode_maxWidth (s := emit p s) hwidth] at he
    exact ⟨_, he, he, rfl, rfl, rfl⟩
  case size =>
    refine (step_fullSize hp hfull.ge ht hr).imp_right fun ⟨hcleared, hsize⟩ => ⟨hcleared, ?_⟩
    rw [hsize]
    bv_omega

end Sys2Proof.Machine
end

section
/-! SUPPORT. The pixel lookup (43_pixel_lookup): what a pixel step does with its index, what the result is, and that the code loop
and the pixels do not overlap. -/

namespace Sys2Proof.Machine

/-! ## The pixel step and the finishing step (R190 to R192) -/

/-- A colour is the sum of its three components. -/
theorem rgb_toNat (c : Rgb) :
    c.toNat = (rgbRed c).toNat + 256 * (rgbGreen c).toNat + 65536 * (rgbBlue c).toNat := by
  have hc := c.isLt
  simp only [rgbRed, rgbGreen, rgbBlue, BitVec.extractLsb'_toNat, Nat.shiftRight_eq_div_pow]
  omega

theorem exec_lookup_inRange {i : Byte} {s : State} (h : i.toNat < s.ctSize.toNat) :
    exec (.lookup i) s = .next { s with out := s.out ++ pixelBytes (ctColour s i), compPos := s.compPos + 1 } :=
  if_neg (Nat.not_le_of_lt h)

theorem exec_lookup_outOfRange {i : Byte} {s : State} (h : s.ctSize.toNat ≤ i.toNat) :
    exec (.lookup i) s = .next (raise .colorIndexOutOfRange (i.setWidth 16) s) :=
  if_pos h

/-- Settles O37: within the table the pixel's components are those of the cell's colour; beyond it the step is fault entry with the
index as its information, which 16 bits hold. -/
theorem lookupRule : Obligations.LookupRule := by
  constructor
  · intro i s hi
    refine ⟨_, _, _, exec_lookup_inRange hi, fun c hc => ?_⟩
    rw [ctColour_of_read hc]
    exact rgb_toNat c
  · intro i s hi
    exact ⟨_, exec_lookup_outOfRange hi, rfl, BitVec.toNat_setWidth_of_le (by decide), rfl, rfl⟩

/-- Settles O38: the meaning is this one write. -/
theorem finishEndsSession : Obligations.FinishEndsSession :=
  fun _ => rfl

/-! ## The result (R193) -/

theorem result_done {s : State} (h : s.phase = .done) : result s = s.out :=
  if_pos h

theorem result_not_done {s : State} (h : s.phase ≠ .done) : result s = [] :=
  if_neg h

/-- With an invalid min-code-size no session was begun: nothing has been decoded. -/
theorem freshInv_of_mcsInvalid {s : State} (h : BlockInv s) (hi : s.mcsInvalid = true) : FreshInv s := by
  refine h.session.resolve_right fun hs => ?_
  obtain ⟨-, hmcs⟩ := h.fault.invalid hi
  have hmin := hs.regs.mcs_range.1
  simp [hmcs] at hmin

/-- Settles O39: in `DONE` every index has been looked up, and each lookup has left four bytes. -/
theorem resultCoversEveryIndex : Obligations.ResultCoversEveryIndex := by
  intro s h
  refine ⟨fun hp => ?done, result_not_done, fun hi => ?invalid⟩
  case done =>
    have hres := result_done hp
    refine ⟨hres, ?_⟩
    rw [hres, h.raster.out_len, h.raster.done_all hp]
  case invalid =>
    obtain ⟨hp, -⟩ := h.fault.invalid hi
    obtain ⟨-, -, hout, -⟩ := (freshInv_of_mcsInvalid h hi).empty
    exact ⟨(result_done hp).trans hout, hp⟩

/-! ## No pixel before the code loop has ended (R195) -/

/-- An element outside `COMPOSITE` is no lookup, and no other element touches the raster. -/
theorem element_out {i : Instr} {s t v : State} (hp : s.phase ≠ .composite) (hf : fetch s = .instr i t)
    (he : exec i t = .next v) : v.out = s.out := by
  rcases fetch_instr hf with ⟨-, b, -, rfl, rfl⟩ | ⟨-, -, rfl, rfl⟩ | ⟨-, -, b, -, rfl, rfl⟩ | ⟨hp', -⟩ | ⟨hp', -⟩
  · unfold decodeMcs at he
    split at he <;> cases he <;> rfl
  · rcases exec_decodeCode_effect he with e | e | e | e <;> rw [e] <;> rfl
  · rcases framingFormat_cases s b with ⟨e, -⟩ | ⟨e, -⟩ | ⟨e, -⟩ <;> rw [e] at he <;> cases he <;> rfl
  · exact absurd hp' hp
  · exact absurd hp' hp

/-- By induction over the elements: those before the last leave the phase alone. -/
theorem engineElements_out : ∀ (n : Nat) {s t : State}, s.phase ≠ .composite → engineElements n s = some (.next t) →
    t.out = s.out
  | 0, s, t, _, h => by simp [engineElements] at h
  | n + 1, s, t, hp, h => by
    rcases engineElements_next h with ⟨-, rfl⟩ | ⟨i, u, v, hf, he, ⟨hc, hrest⟩ | ⟨-, rfl⟩⟩
    · rfl
    · obtain ⟨hphase, -⟩ := element_continues_session hf he hc
      exact (engineElements_out n (hphase ▸ hp) hrest).trans (element_out hp hf he)
    · exact element_out hp hf he

theorem engineTurn_out {s t : State} (hp : s.phase ≠ .composite) (h : engineTurn s = .next t) : t.out = s.out := by
  rcases engineTurn_next.1 h with h | ⟨-, rfl⟩
  · exact engineElements_out _ hp h
  · rfl

/-! ## No code after it (R195) -/

/-- Outside `HEADER` and `LZW` the engine's turn is a pixel step, the finishing step, or none. -/
theorem engineTurn_outsideLoop_frame {s t : State} (hh : s.phase ≠ .header) (hl : s.phase ≠ .lzw)
    (h : engineTurn s = .next t) :
    t = { s with out := t.out, compPos := t.compPos, phase := t.phase, fault := t.fault, faultInfo := t.faultInfo } := by
  cases hf : fetch s with
  | hold =>
    cases (engineTurn_hold hf).symm.trans h
    rfl
  | eos => exact (fetch_eos hf).1.elim (fun hp => absurd hp hh) fun ⟨hp, _⟩ => absurd hp hl
  | instr i u =>
    rcases fetch_instr hf with ⟨hp, -⟩ | ⟨hp, -⟩ | ⟨hp, -⟩ | ⟨-, k, -, rfl, rfl⟩ | ⟨-, -, rfl, rfl⟩
    · exact absurd hp hh
    · exact absurd hp hl
    · exact absurd hp hl
    · rw [engineTurn_single hf rfl] at h
      rcases execLookup_effect h with ⟨-, rfl⟩ | ⟨-, rfl⟩ <;> rfl
    · cases (engineTurn_single hf rfl).symm.trans h
      rfl

/-- What the host's writes other than RESET may change. -/
theorem hostWrite_frame {s t : State} {reg : Nat} {v : Word} (hr : ¬ (reg = 0 ∧ v.getLsbD 1 = true))
    (h : hostWrite reg v s = .next t) :
    t = { s with
          inp := t.inp, inClosed := t.inClosed, phase := t.phase, ct := t.ct, ctSize := t.ctSize,
          outAddr := t.outAddr } := by
  rcases hostWrite_effect h hr with ⟨e, -⟩ | ⟨-, n, rfl⟩ | ⟨-, i, c, rfl⟩ | ⟨-, b, rfl⟩ | ⟨k, rfl⟩
  · rw [e]
  all_goals rfl

/-- Settles O57: by the move that is due; the host changes neither the raster nor the code loop's registers. -/
theorem phasesAreSequential : Obligations.PhasesAreSequential := by
  intro s t h hr
  rcases step_next h with ⟨u, hd, hu⟩ | ⟨reg, v, r, ha, hw⟩ | ⟨reg, r, -, hrd⟩
  · obtain ⟨r, rfl⟩ := engineDue_frame hd
    refine ⟨fun hp => engineTurn_out (s := { s with agenda := r }) hp hu, fun hh hl => ?_⟩
    rw [engineTurn_outsideLoop_frame (s := { s with agenda := r }) hh hl hu]
    exact ⟨rfl, rfl, rfl, rfl, rfl, rfl⟩
  · rw [hostWrite_frame (fun ⟨hreg, hv⟩ => hr ⟨v, r, hreg ▸ ha, hv⟩) hw]
    exact ⟨fun _ => rfl, fun _ _ => ⟨rfl, rfl, rfl, rfl, rfl, rfl⟩⟩
  · rw [hostRead_effect hrd]
    exact ⟨fun _ => rfl, fun _ _ => ⟨rfl, rfl, rfl, rfl, rfl, rfl⟩⟩

end Sys2Proof.Machine
end

section
/-! SUPPORT. Faults and flags (60_exceptions R224 to R230): the terminal phases, what an engine step that faults leaves, and what
only RESET clears. -/

namespace Sys2Proof.Machine

/-! ## The terminal phases (R229) -/

theorem fetch_terminal {s : State} (h : Terminal s) : fetch s = .hold := by
  rcases h with h | h <;> simp only [fetch, h]

theorem engineStep_terminal {s : State} (h : Terminal s) : engineStep s = none :=
  engineElements_hold (fetch_terminal h)

/-- START is the only host write but RESET that changes the phase, and it does so in `IDLE` only. -/
theorem hostWrite_phase {s t : State} {reg : Nat} {v : Word} (hi : s.phase ≠ .idle)
    (hr : ¬ (reg = 0 ∧ v.getLsbD 1 = true)) (h : hostWrite reg v s = .next t) : t.phase = s.phase := by
  rcases hostWrite_effect h hr with ⟨-, -, e | ⟨hp, -⟩⟩ | ⟨-, n, rfl⟩ | ⟨-, i, c, rfl⟩ | ⟨-, b, rfl⟩ | ⟨k, rfl⟩
  · exact e
  · exact absurd hp hi
  all_goals rfl

/-- In a terminal phase the engine is held, and the host changes neither the phase nor the fault. -/
theorem step_terminal {s t : State} (hs : Terminal s) (h : step s = .next t) (hr : ¬ ResetDue s) :
    t.phase = s.phase ∧ t.fault = s.fault ∧ t.faultInfo = s.faultInfo := by
  rcases step_next h with ⟨u, hd, hu⟩ | ⟨reg, v, r, ha, hw⟩ | ⟨reg, r, -, hrd⟩
  · obtain ⟨r, rfl⟩ := engineDue_frame hd
    have hhold : fetch { s with agenda := r } = .hold := fetch_terminal hs
    cases (engineTurn_hold hhold).symm.trans hu
    exact ⟨rfl, rfl, rfl⟩
  · have hreset : ¬ (reg = 0 ∧ v.getLsbD 1 = true) := fun ⟨hreg, hv⟩ => hr ⟨v, r, hreg ▸ ha, hv⟩
    have hidle : s.phase ≠ .idle := by rcases hs with hp | hp <;> simp [hp]
    refine ⟨hostWrite_phase (s := { s with agenda := r }) hidle hreset hw, ?_⟩
    rw [hostWrite_frame hreset hw]
    exact ⟨rfl, rfl⟩
  · rw [hostRead_effect hrd]
    exact ⟨rfl, rfl, rfl⟩

/-- Settles O53: the fetch holds in both phases, and no move but a RESET leaves them. -/
theorem terminalPhasesAreFinal : Obligations.TerminalPhasesAreFinal :=
  fun _ _ hs => ⟨engineStep_terminal hs, step_terminal hs⟩

/-! ## Faults are precise (R228) -/

/-- `t` is `s` but for the bit reader's registers, `FAULT`, `FAULT_INFO` and `PHASE`, and a fault is set. -/
def FaultEntered (s t : State) : Prop :=
  t = { s with
        inPos := t.inPos, blkRem := t.blkRem, acc := t.acc, nbits := t.nbits,
        fault := t.fault, faultInfo := t.faultInfo, phase := t.phase } ∧ t.fault ≠ .none

/-- Of the elements only an illegal code and an index out of range end in `FAULT`, by a fault entry straight after the fetch. -/
theorem element_faultEntered {i : Instr} {s t v : State} (hf : fetch s = .instr i t) (he : exec i t = .next v)
    (hv : v.phase = .fault) : FaultEntered s v := by
  rcases fetch_instr hf with ⟨-, b, -, rfl, rfl⟩ | ⟨hp, -, rfl, rfl⟩ | ⟨hp, -, b, -, rfl, rfl⟩ | ⟨hp, k, -, rfl, rfl⟩ |
    ⟨-, -, rfl, rfl⟩
  · unfold decodeMcs at he
    split at he <;> cases he <;> cases hv
  · rcases exec_decodeCode_effect he with e | rfl | rfl | e
    · rw [e] at hv
      cases hp.symm.trans hv
    · cases hv
    · exact ⟨rfl, nofun⟩
    · rw [e] at hv
      cases hp.symm.trans hv
  · rcases framingFormat_cases s b with ⟨e, -⟩ | ⟨e, -⟩ | ⟨e, -⟩ <;> rw [e] at he <;> cases he
    · cases hv
    · cases hp.symm.trans hv
    · cases hp.symm.trans hv
  · rcases execLookup_effect he with ⟨-, rfl⟩ | ⟨-, rfl⟩
    · exact ⟨rfl, nofun⟩
    · cases hp.symm.trans hv
  · cases he
    cases hv

/-- An element after which the step goes on changes the bit reader's registers at most. -/
theorem element_continues_frame {i : Instr} {s t v : State} (hf : fetch s = .instr i t) (he : exec i t = .next v)
    (hc : continuesStep i = true) :
    v = { s with inPos := v.inPos, blkRem := v.blkRem, acc := v.acc, nbits := v.nbits } := by
  have ht : t = { s with inPos := t.inPos, acc := t.acc, nbits := t.nbits } := by
    rcases fetch_instr hf with ⟨-, b, -, -, rfl⟩ | ⟨-, -, -, rfl⟩ | ⟨-, -, b, -, -, rfl⟩ | ⟨-, k, -, -, rfl⟩ | ⟨-, -, -, rfl⟩ <;>
      rfl
  cases i with
  | blklen | data => cases he; rw [ht]; rfl
  | _ => cases hc

/-- By induction over the elements: those before the last touch the bit reader only. -/
theorem engineElements_faultEntered : ∀ (n : Nat) {s t : State}, engineElements n s = some (.next t) → t.phase = .fault →
    FaultEntered s t
  | 0, s, t, h, _ => by simp [engineElements] at h
  | n + 1, s, t, h, ht => by
    rcases engineElements_next h with ⟨-, rfl⟩ | ⟨i, u, v, hf, he, ⟨hc, hrest⟩ | ⟨-, rfl⟩⟩
    · exact ⟨rfl, nofun⟩
    · have hentered := engineElements_faultEntered n hrest ht
      rw [element_continues_frame hf he hc] at hentered
      exact hentered
    · exact element_faultEntered hf he ht

/-- Settles O58: an engine that is held has not come to `FAULT`, and a step of elements that has got there by a fault entry. -/
theorem faultsArePrecise : Obligations.FaultsArePrecise := by
  intro s u t hd hu h ht
  rw [step_engine hd] at h
  rcases engineTurn_next.1 h with hs | ⟨-, rfl⟩
  · exact engineElements_faultEntered maxElements hs ht
  · exact absurd ht hu

/-! ## Faults and flags are sticky (R230, R37) -/

/-- Each of the three flags that is set in `s` is set in `t`. -/
def FlagsKept (s t : State) : Prop :=
  (s.eoiSeen = true → t.eoiSeen = true) ∧ (s.softEnd = true → t.softEnd = true) ∧
  (s.mcsInvalid = true → t.mcsInvalid = true)

theorem flagsKept_trans (a b c : State) : FlagsKept a b → FlagsKept b c → FlagsKept a c :=
  fun ⟨he, hs, hm⟩ ⟨he', hs', hm'⟩ => ⟨he' ∘ he, hs' ∘ hs, hm' ∘ hm⟩

/-- END, TERM and an invalid min-code-size set a flag each; no element clears one. -/
theorem element_flagsKept {i : Instr} {s t v : State} (hf : fetch s = .instr i t) (he : exec i t = .next v) :
    FlagsKept s v := by
  rcases fetch_instr hf with ⟨-, b, -, rfl, rfl⟩ | ⟨-, -, rfl, rfl⟩ | ⟨-, -, b, -, rfl, rfl⟩ | ⟨-, k, -, rfl, rfl⟩ |
    ⟨-, -, rfl, rfl⟩
  · unfold decodeMcs at he
    split at he <;> cases he
    · exact ⟨id, id, fun _ => rfl⟩
    · exact ⟨id, id, id⟩
  · rcases exec_decodeCode_effect he with e | rfl | rfl | e
    · rw [e]
      exact ⟨id, id, id⟩
    · exact ⟨fun _ => rfl, id, id⟩
    · exact ⟨id, id, id⟩
    · rw [e]
      exact ⟨id, id, id⟩
  · rcases framingFormat_cases s b with ⟨e, -⟩ | ⟨e, -⟩ | ⟨e, -⟩ <;> rw [e] at he <;> cases he
    · exact ⟨id, fun _ => rfl, id⟩
    · exact ⟨id, id, id⟩
    · exact ⟨id, id, id⟩
  · rcases execLookup_effect he with ⟨-, rfl⟩ | ⟨-, rfl⟩ <;> exact ⟨id, id, id⟩
  · cases he
    exact ⟨id, id, id⟩

/-- By induction over the moves of the step: only elements write the flags. -/
theorem step_flagsKept {s t : State} (h : step s = .next t) (hr : ¬ ResetDue s) : FlagsKept s t := by
  refine step_induction flagsKept_trans ?agenda ?eos (fun _ _ _ _ => element_flagsKept) ?write ?read h hr
  case agenda => exact fun s r => ⟨id, id, id⟩
  case eos => exact fun s _ => ⟨id, id, id⟩
  case write =>
    intro s reg v t hr hw
    rw [hostWrite_frame hr hw]
    exact ⟨id, id, id⟩
  case read => exact fun s w => ⟨id, id, id⟩

/-- Settles O59: a set fault stands in a terminal phase, which keeps it; the flags are kept in every phase. -/
theorem faultsAndFlagsAreSticky : Obligations.FaultsAndFlagsAreSticky := by
  intro s t h hr hfault
  refine ⟨fun hf => ?_, step_flagsKept h hr⟩
  obtain ⟨-, e, -⟩ := step_terminal (.inr (hfault hf)) h hr
  exact e

end Sys2Proof.Machine
end

section
/-! SUPPORT. What the engine leaves to the host: the agenda, the closed mark and the colour table, which no element of a step
writes (70_reset_and_hazards R254). -/

namespace Sys2Proof.Machine

/-- The items that only host accesses change are in `t` as they were in `s`. -/
def HostItemsKept (s t : State) : Prop :=
  t.agenda = s.agenda ∧ t.inClosed = s.inClosed ∧ t.ct = s.ct ∧ t.ctSize = s.ctSize

theorem hostItemsKept_trans (a b c : State) : HostItemsKept a b → HostItemsKept b c → HostItemsKept a c :=
  fun ⟨ha, hc, ht, hn⟩ ⟨ha', hc', ht', hn'⟩ => ⟨ha'.trans ha, hc'.trans hc, ht'.trans ht, hn'.trans hn⟩

theorem element_hostItemsKept {i : Instr} {s t v : State} (hf : fetch s = .instr i t) (he : exec i t = .next v) :
    HostItemsKept s v := by
  rcases fetch_instr hf with ⟨-, b, -, rfl, rfl⟩ | ⟨-, -, rfl, rfl⟩ | ⟨-, -, b, -, rfl, rfl⟩ | ⟨-, k, -, rfl, rfl⟩ |
    ⟨-, -, rfl, rfl⟩
  · unfold decodeMcs at he
    split at he <;> cases he <;> exact ⟨rfl, rfl, rfl, rfl⟩
  · rcases exec_decodeCode_effect he with e | e | e | e <;> rw [e] <;> exact ⟨rfl, rfl, rfl, rfl⟩
  · rcases framingFormat_cases s b with ⟨e, -⟩ | ⟨e, -⟩ | ⟨e, -⟩ <;> rw [e] at he <;> cases he <;> exact ⟨rfl, rfl, rfl, rfl⟩
  · rcases execLookup_effect he with ⟨-, rfl⟩ | ⟨-, rfl⟩ <;> exact ⟨rfl, rfl, rfl, rfl⟩
  · cases he
    exact ⟨rfl, rfl, rfl, rfl⟩

theorem engineTurn_hostItemsKept {s t : State} (h : engineTurn s = .next t) : HostItemsKept s t := by
  rcases engineTurn_next.1 h with hs | ⟨-, rfl⟩
  · exact engineElements_induction hostItemsKept_trans (fun _ _ => ⟨rfl, rfl, rfl, rfl⟩)
      (fun _ _ _ _ => element_hostItemsKept) _ _ _ hs
  · exact ⟨rfl, rfl, rfl, rfl⟩

/-- `CTSIZE` and `CTWR` are the only host writes but RESET that change the colour table, and they do so in `IDLE` only. -/
theorem hostWrite_colourTable {s t : State} {reg : Nat} {v : Word} (hi : s.phase ≠ .idle)
    (hr : ¬ (reg = 0 ∧ v.getLsbD 1 = true)) (h : hostWrite reg v s = .next t) : t.ct = s.ct ∧ t.ctSize = s.ctSize := by
  rcases hostWrite_effect h hr with ⟨e, -⟩ | ⟨hp, -⟩ | ⟨hp, -⟩ | ⟨-, b, rfl⟩ | ⟨k, rfl⟩
  · rw [e]
    exact ⟨rfl, rfl⟩
  · exact absurd hp hi
  · exact absurd hp hi
  · exact ⟨rfl, rfl⟩
  · exact ⟨rfl, rfl⟩

/-- Settles O54: by the move that is due; the state after RESET lists no cell. -/
theorem colourTableFrozen : Obligations.ColourTableFrozen := by
  refine ⟨fun s t hi h hr => ?_, fun s => ⟨_, rfl, rfl, fun _ => rfl⟩⟩
  rcases step_next h with ⟨u, hd, hu⟩ | ⟨reg, v, r, ha, hw⟩ | ⟨reg, r, -, hrd⟩
  · obtain ⟨r, rfl⟩ := engineDue_frame hd
    obtain ⟨-, -, hct⟩ := engineTurn_hostItemsKept hu
    exact hct
  · exact hostWrite_colourTable (s := { s with agenda := r }) hi (fun ⟨hreg, hv⟩ => hr ⟨v, r, hreg ▸ ha, hv⟩) hw
  · rw [hostRead_effect hrd]
    exact ⟨rfl, rfl⟩

end Sys2Proof.Machine
end

section
/-! SUPPORT. A closed session ends (70_reset_and_hazards R259): once the input is closed the engine is never held, and each element
of a step leaves less work. The work is the phases still to come and, within a phase, its input or its pixels. -/

namespace Sys2Proof.Machine

/-! ## The work a session has left -/

/-- How many phases of a session may still follow. -/
def phasesLeft : Phase → Nat
  | .idle => 4 | .header => 3 | .lzw => 2 | .composite => 1 | .done | .fault => 0

/-- The input the code loop has not used: its bytes, and the bits buffered. A byte counts for one more than the 8 bits it becomes,
so that buffering one is progress too. -/
def loopWork (s : State) : Nat := 9 * (s.inp.length - s.inPos) + s.nbits.toNat

/-- What is left to do in the phase `s` is in. -/
def phaseWork (s : State) : Nat :=
  match s.phase with
  | .lzw => loopWork s
  | .composite => s.idx.length - s.compPos
  | .idle | .header | .done | .fault => 0

/-- Phases first: `IDX` grows while the code loop runs, so pixels are counted only once it has ended. -/
def workLeft (s : State) : ℕ ×ₗ ℕ := toLex (phasesLeft s.phase, phaseWork s)

theorem workLeft_lt_of_phase {s t : State} {p : Phase} (q : Phase) (hs : s.phase = p) (ht : t.phase = q)
    (h : phasesLeft q < phasesLeft p) : workLeft t < workLeft s :=
  Prod.Lex.toLex_lt_toLex.2 (.inl (by rwa [hs, ht]))

theorem workLeft_lt_of_loop {s t : State} (hs : s.phase = .lzw) (ht : t.phase = .lzw) (h : loopWork t < loopWork s) :
    workLeft t < workLeft s :=
  Prod.Lex.toLex_lt_toLex.2 (.inr ⟨by rw [hs, ht], by simpa only [phaseWork, hs, ht] using h⟩)

theorem workLeft_lt_of_pixel {s t : State} (hs : s.phase = .composite) (ht : t.phase = .composite)
    (h : t.idx.length - t.compPos < s.idx.length - s.compPos) : workLeft t < workLeft s :=
  Prod.Lex.toLex_lt_toLex.2 (.inr ⟨by rw [hs, ht], by simpa only [phaseWork, hs, ht] using h⟩)

/-- No step leads back to `IDLE`, which has the most work before it. -/
theorem not_idle_of_workLeft_lt {s t : State} (hi : s.phase ≠ .idle) (h : workLeft t < workLeft s) : t.phase ≠ .idle := by
  intro ht
  have hle : phasesLeft t.phase ≤ phasesLeft s.phase := (Prod.Lex.toLex_lt_toLex.1 h).elim le_of_lt fun h => h.1.le
  rw [ht] at hle
  cases hp : s.phase with
  | idle => exact hi hp
  | _ => rw [hp] at hle; exact absurd hle (by decide)

/-! ## Every element leaves less of it -/

theorem dropCode_loopWork {s : State} (hpos : 0 < s.codeSize.toNat) (hw : s.codeSize.toNat ≤ s.nbits.toNat) :
    loopWork (dropCode s) < loopWork s := by
  have hn := dropCode_nbits_toNat hw
  simp only [loopWork, dropCode_inp, dropCode_inPos]
  omega

theorem openBlock_loopWork {s : State} {b : Byte} (hb : s.inp[s.inPos]? = some b) (n : Byte) :
    loopWork (openBlock n (advance s)) < loopWork s := by
  have hlt := cursor_lt hb
  simp only [loopWork, openBlock_inp, openBlock_inPos, openBlock_nbits, advance_inp, advance_inPos, advance_nbits]
  omega

theorem bufferByte_loopWork {s : State} {b : Byte} (hb : s.inp[s.inPos]? = some b) (hw : s.nbits.toNat < s.codeSize.toNat)
    (x : Byte) : loopWork (bufferByte x (advance s)) < loopWork s := by
  have hlt := cursor_lt hb
  have hn : (bufferByte x (advance s)).nbits.toNat = s.nbits.toNat + 8 := nbits_bufferByte (s := advance s) x hw
  simp only [loopWork, hn, bufferByte_inp, bufferByte_inPos, advance_inp, advance_inPos]
  omega

/-- The header step leaves its phase. -/
theorem exec_decodeMcs_workLeft {s u t : State} {b : Byte} (hp : s.phase = .header) (h : exec (decodeMcs b) u = .next t) :
    workLeft t < workLeft s := by
  unfold decodeMcs at h
  split at h <;> cases h
  · exact workLeft_lt_of_phase .done hp rfl (by decide)
  · exact workLeft_lt_of_phase .lzw hp rfl (by decide)

/-- A code uses its bits up, or ends the code loop. -/
theorem exec_decodeCode_workLeft {r : CodeRegs} {c : Code} {s t : State} (hp : s.phase = .lzw) (hpos : 0 < s.codeSize.toNat)
    (hw : s.codeSize.toNat ≤ s.nbits.toNat) (h : exec (decodeCode r c) (dropCode s) = .next t) :
    workLeft t < workLeft s := by
  have hdrop := dropCode_loopWork hpos hw
  rcases exec_decodeCode_effect h with e | rfl | rfl | e
  · rw [e]
    exact workLeft_lt_of_loop hp hp hdrop
  · exact workLeft_lt_of_phase .composite hp rfl (by decide)
  · exact workLeft_lt_of_phase .fault hp rfl (by decide)
  · rw [e]
    exact workLeft_lt_of_loop hp hp hdrop

/-- A framing byte is taken from the input, and the terminator ends the code loop. -/
theorem exec_framingFormat_workLeft {s t : State} {b : Byte} (hp : s.phase = .lzw) (hw : s.nbits.toNat < s.codeSize.toNat)
    (hb : s.inp[s.inPos]? = some b) (h : exec (framingFormat s b) (advance s) = .next t) : workLeft t < workLeft s := by
  rcases framingFormat_cases s b with ⟨e, -⟩ | ⟨e, -⟩ | ⟨e, -⟩ <;> rw [e] at h <;> cases h
  · exact workLeft_lt_of_phase .composite hp rfl (by decide)
  · exact workLeft_lt_of_loop hp hp (openBlock_loopWork hb b)
  · exact workLeft_lt_of_loop hp hp (bufferByte_loopWork hb hw b)

/-- A pixel step looks an index up, or ends the session in a fault. -/
theorem execLookup_workLeft {s t : State} {k : Byte} (hp : s.phase = .composite) (hk : s.idx[s.compPos]? = some k)
    (h : execLookup k s = .next t) : workLeft t < workLeft s := by
  have hlt : s.compPos < s.idx.length := (List.getElem?_eq_some_iff.1 hk).1
  rcases execLookup_effect h with ⟨-, rfl⟩ | ⟨-, rfl⟩
  · exact workLeft_lt_of_phase .fault hp rfl (by decide)
  · exact workLeft_lt_of_pixel hp hp (by simp only; omega)

theorem element_workLeft {i : Instr} {s t v : State} (hpos : s.phase = .lzw → 0 < s.codeSize.toNat)
    (hf : fetch s = .instr i t) (he : exec i t = .next v) : workLeft v < workLeft s := by
  rcases fetch_instr hf with ⟨hp, b, -, rfl, rfl⟩ | ⟨hp, hw, rfl, rfl⟩ | ⟨hp, hw, b, hb, rfl, rfl⟩ | ⟨hp, k, hk, rfl, rfl⟩ |
    ⟨hp, -, rfl, rfl⟩
  · exact exec_decodeMcs_workLeft hp he
  · exact exec_decodeCode_workLeft hp (hpos hp) hw he
  · exact exec_framingFormat_workLeft hp hw hb he
  · exact execLookup_workLeft hp hk he
  · cases he
    exact workLeft_lt_of_phase .done hp rfl (by decide)

theorem eos_workLeft {s : State} (hf : fetch s = .eos) : workLeft (raise .unexpectedEndOfStream 0 s) < workLeft s := by
  obtain ⟨hp | ⟨hp, -⟩, -⟩ := fetch_eos hf <;> exact workLeft_lt_of_phase .fault hp rfl (by decide)

/-- By induction over the elements: those before the last leave the phase and the width alone. -/
theorem engineElements_workLeft : ∀ (n : Nat) {s t : State}, (s.phase = .lzw → 0 < s.codeSize.toNat) →
    engineElements n s = some (.next t) → workLeft t < workLeft s
  | 0, s, t, _, h => by simp [engineElements] at h
  | n + 1, s, t, hpos, h => by
    rcases engineElements_next h with ⟨hf, rfl⟩ | ⟨i, u, v, hf, he, ⟨hc, hrest⟩ | ⟨-, rfl⟩⟩
    · exact eos_workLeft hf
    · obtain ⟨hphase, -, hsize⟩ := element_continues_session hf he hc
      have hrest' := engineElements_workLeft n (s := v) (by rwa [hphase, hsize]) hrest
      exact hrest'.trans (element_workLeft hpos hf he)
    · exact element_workLeft hpos hf he

/-! ## The engine is not held -/

/-- With the input closed a missing byte is the end of the input, and in `COMPOSITE` there is an index or the end of `IDX`. -/
theorem fetch_not_hold {s : State} (hc : s.inClosed = true) (hi : s.phase ≠ .idle) (ht : ¬ Terminal s)
    (hpos : s.compPos ≤ s.idx.length) : fetch s ≠ .hold := by
  have hbyte (hn : NeedsByte s) : fetch s ≠ .hold := by
    obtain ⟨f, hf⟩ := fetch_of_needsByte hn
    simp [hf, fetchByte_hold, hc]
  cases hp : s.phase with
  | idle => exact absurd hp hi
  | header => exact hbyte (.inl hp)
  | lzw =>
    by_cases hw : s.codeSize.toNat ≤ s.nbits.toNat
    · simp [fetch_code hp hw]
    · exact hbyte (.inr ⟨hp, Nat.lt_of_not_le hw⟩)
  | composite =>
    cases hk : s.idx[s.compPos]? with
    | some k => simp [fetch_index hp hk]
    | none => simp [fetch_finish hp (hpos.antisymm (List.getElem?_eq_none_iff.1 hk))]
  | done => exact absurd (.inl hp) ht
  | fault => exact absurd (.inr hp) ht

/-- By induction over the elements: those before the last touch the bit reader only. -/
theorem engineElements_ne_none {n : Nat} {s : State} (hc : s.inClosed = true) (hi : s.phase ≠ .idle) (ht : ¬ Terminal s)
    (hpos : s.compPos ≤ s.idx.length) : engineElements n s ≠ none := by
  induction n generalizing s with
  | zero => simp [engineElements]
  | succ n ih =>
    cases hf : fetch s with
    | hold => exact absurd hf (fetch_not_hold hc hi ht hpos)
    | eos => simp [engineElements_eos hf]
    | instr i u =>
      cases he : exec i u with
      | next v =>
        rw [engineElements_instr hf he]
        split
        · next hcont =>
          rw [element_continues_frame hf he hcont]
          exact ih hc hi ht hpos
        · simp
      | fault r => exact absurd he (exec_not_fault i u r)
      | refused r => simp [engineElements, hf, he]

/-! ## A closed session -/

/-- A started session with the input closed and no host move due, as it stands between two steps. -/
structure ClosedSession (s : State) : Prop where
  inv     : BlockInv s
  agenda  : s.agenda = []
  closed  : s.inClosed = true
  started : s.phase ≠ .idle

theorem codeSize_pos {s : State} (h : BlockInv s) (hp : s.phase = .lzw) : 0 < s.codeSize.toNat :=
  Nat.lt_of_lt_of_le (Nat.succ_pos _) (sessionInv_of_lzw h hp).regs.width_range.1

/-- Until it ends, each step leaves a closed session with less work. -/
theorem closedSession_step {s : State} (h : ClosedSession s) (ht : ¬ Terminal s) :
    ∃ t, step s = .next t ∧ ClosedSession t ∧ workLeft t < workLeft s := by
  obtain ⟨t, hstep, hinv⟩ := step_inv h.inv
  have hturn : engineTurn s = .next t := (step_engine (.inl ⟨h.agenda, rfl⟩)).symm.trans hstep
  have hless : workLeft t < workLeft s := by
    rcases engineTurn_next.1 hturn with he | ⟨he, -⟩
    · exact engineElements_workLeft maxElements (codeSize_pos h.inv) he
    · exact absurd he (engineElements_ne_none h.closed h.started ht h.inv.raster.pos_le)
  obtain ⟨hagenda, hclosed, -⟩ := engineTurn_hostItemsKept hturn
  exact ⟨t, hstep, ⟨hinv, hagenda.trans h.agenda, hclosed.trans h.closed, not_idle_of_workLeft_lt h.started hless⟩, hless⟩

theorem run_succ {s t : State} (h : step s = .next t) (n : Nat) :
    Host.Core.run Sys2Proof.core (n + 1) s = Host.Core.run Sys2Proof.core n t := by
  have hcore : Sys2Proof.core.step s = .next t := h
  simp only [Host.Core.run, hcore]

/-- By induction on the work left, which is well-founded. -/
theorem closedSession_ends {s : State} (h : ClosedSession s) :
    ∃ n t, Host.Core.run Sys2Proof.core n s = .next t ∧ Terminal t := by
  by_cases ht : Terminal s
  · exact ⟨0, s, rfl, ht⟩
  · obtain ⟨t, hstep, hsession, hless⟩ := closedSession_step h ht
    obtain ⟨n, u, hrun, hu⟩ := closedSession_ends hsession
    exact ⟨n + 1, u, (run_succ hstep n).trans hrun, hu⟩
termination_by workLeft s
decreasing_by exact hless

/-- Settles O14: a state of the statement is a closed session. -/
theorem closedSessionsTerminate : Obligations.ClosedSessionsTerminate :=
  fun _ hinv hagenda hclosed hstarted => closedSession_ends ⟨hinv, hagenda, hclosed, hstarted⟩

end Sys2Proof.Machine
end

section
/-! SUPPORT. Decoder and encoder against each other, by the families of 30_encoding: the byte formats (R91 to R93), the codes
(R95, R96), the host's writes and reads (R104); then the invariant at reset (10_state R57). -/

namespace Sys2Proof.Machine

/-! ## The byte formats -/

theorem decodeMcs_legal {n : Byte} (h : (Instr.mcs n).wellFormed = true) : decodeMcs n = .mcs n :=
  if_neg fun hout => by
    have hin := of_decide_eq_true h
    omega

theorem decodeMcs_invalid {b : Byte} (h : (Instr.mcsInvalid b).wellFormed = true) : decodeMcs b = .mcsInvalid b :=
  if_pos (of_decide_eq_true h)

theorem decodeLen_nonzero {n : Byte} (h : (Instr.blklen n).wellFormed = true) : decodeLen n = .blklen n :=
  if_neg (of_decide_eq_true h)

theorem decodeMcs_wellFormed (b : Byte) : (decodeMcs b).wellFormed = true := by
  unfold decodeMcs
  split
  · next hout => exact decide_eq_true hout
  · next hin => exact decide_eq_true (by omega)

theorem decodeLen_wellFormed (b : Byte) : (decodeLen b).wellFormed = true := by
  unfold decodeLen
  split
  · rfl
  · next hb => exact decide_eq_true hb

/-! ## The codes -/

theorem legal_width {w : BitVec 4} {r : CodeRegs} (h : r.legal w = true) : w.toNat ≤ 12 := by
  obtain ⟨-, hw, -⟩ := of_decide_eq_true h
  exact hw

/-- The `w` low bits are a value below `2^w`: a width of at most 12 loses none of them in a code. -/
theorem codeBits_toNat {w : BitVec 4} (hw : w.toNat ≤ 12) (v : Word) : (codeBits w v).toNat = v.toNat % 2 ^ w.toNat :=
  Nat.mod_eq_of_lt ((Nat.mod_lt _ (Nat.two_pow_pos _)).trans_le (Nat.pow_le_pow_right (by decide) hw))

/-- A value of `w` bits, zero-extended to a word, is the code its `w` low bits are. -/
theorem codeBits_setWidth {w : BitVec 4} (hw : w.toNat ≤ 12) {n : Nat} {x : BitVec n} (hx : x.toNat < 2 ^ w.toNat) :
    (codeBits w (x.setWidth 32)).toNat = x.toNat := by
  have hword : x.toNat < 2 ^ 32 := hx.trans_le (Nat.pow_le_pow_right (by decide) (by omega))
  rw [codeBits_toNat hw, BitVec.toNat_setWidth, Nat.mod_eq_of_lt hword, Nat.mod_eq_of_lt hx]

/-- A value of `w` bits, a control code of 9 bits or a code of 12, decodes to the class of the code with its number. -/
theorem decode_code {w : BitVec 4} {r : CodeRegs} {i : Instr} {n : Nat} {x : BitVec n} (hl : r.legal w = true)
    (hx : x.toNat < 2 ^ w.toNat) (hi : ∀ c : Code, c.toNat = x.toNat → decodeCode r c = i) :
    decode (.code w r) (x.setWidth 32) = .instr i :=
  congrArg Decoded.instr (hi _ (codeBits_setWidth (legal_width hl) hx))

/-- A code of `w` bits decodes to its class. -/
theorem decode_code_self {w : BitVec 4} {r : CodeRegs} {c : Code} {i : Instr} (hl : r.legal w = true)
    (hc : c.toNat < 2 ^ w.toNat) (hi : decodeCode r c = i) : decode (.code w r) (c.setWidth 32) = .instr i :=
  decode_code hl hc fun _ he => BitVec.eq_of_toNat_eq he ▸ hi

/-- Equal numbers are equal words. -/
theorem setWidth_word_congr {m n : Nat} {x : BitVec m} {y : BitVec n} (h : x.toNat = y.toNat) :
    (x.setWidth 32 : Word) = y.setWidth 32 :=
  BitVec.eq_of_toNat_eq (by rw [BitVec.toNat_setWidth, BitVec.toNat_setWidth, h])

/-- Settles O2: the row of R96 that gives the class gives its range and its condition; a control code is the register the code
equals, and every other class carries the code itself. -/
theorem decodeThenEncodeCodes : Obligations.DecodeThenEncodeCodes := by
  intro w r v i hl hd
  obtain ⟨-, hw, hmin, hmax, heoi, hsize, -⟩ := of_decide_eq_true hl
  obtain rfl : decodeCode r (codeBits w v) = i := Decoded.instr.inj hd
  have hlt : (codeBits w v).toNat < 2 ^ w.toNat := codeBits_toNat hw v ▸ Nat.mod_lt _ (Nat.two_pow_pos _)
  generalize codeBits w v = c at hlt ⊢
  rcases decodeCode_class r c with ⟨e, h⟩ | ⟨e, h, -⟩ | ⟨e, h, -⟩ | ⟨hc, hne, ⟨e, h⟩ | ⟨e, h, hp⟩ | ⟨e, h, hp⟩ | ⟨e, h⟩⟩ <;>
    rw [e]
  · exact ⟨rfl, decide_eq_true (h ▸ hlt), congrArg (Encoding.mk _) (setWidth_word_congr h.symm)⟩
  · exact ⟨rfl, decide_eq_true (h ▸ hlt), congrArg (Encoding.mk _) (setWidth_word_congr h.symm)⟩
  · exact ⟨decide_eq_true (by omega), decide_eq_true ⟨hlt, h⟩, rfl⟩
  · exact ⟨decide_eq_true (by omega), decide_eq_true ⟨hlt, by omega, h⟩, rfl⟩
  · exact ⟨decide_eq_true (by omega), decide_eq_true ⟨hlt, h, hp⟩, rfl⟩
  · exact ⟨decide_eq_true (by omega), decide_eq_true ⟨hlt, h, hp⟩, rfl⟩
  · exact ⟨decide_eq_true (by omega), decide_eq_true ⟨hlt, h⟩, rfl⟩

/-! ## The host's writes and reads -/

theorem rgbWord_toNat (r g b : Byte) : (rgbWord r g b).toNat = r.toNat + 256 * g.toNat + 65536 * b.toNat := by
  have ext : ∀ x : Byte, (x.setWidth 32).toNat = x.toNat := fun x => BitVec.toNat_setWidth_of_le (by decide)
  have hr := ext r
  have hg := ext g
  have hb := ext b
  unfold rgbWord
  have e8 := toNat_or_shiftLeft (k := 8) (hr.trans_lt r.isLt) (b := g.setWidth 32) (by omega)
  have e16 := toNat_or_shiftLeft (k := 16) (e8.trans_lt (by omega)) (b := b.setWidth 32) (by omega)
  omega

/-- The three low bytes of a colour-table word are its components (20_memory R71). -/
theorem wordByte_rgbWord (r g b : Byte) :
    wordByte (rgbWord r g b) 0 = r ∧ wordByte (rgbWord r g b) 8 = g ∧ wordByte (rgbWord r g b) 16 = b := by
  have hword := rgbWord_toNat r g b
  refine ⟨?_, ?_, ?_⟩ <;> apply BitVec.eq_of_toNat_eq <;> rw [wordByte_toNat, hword] <;> omega

theorem decodeRead_rdct (i : Byte) : decodeRead (256 + i.toNat) = .instr (.rdct i) := by
  have hi := i.isLt
  unfold decodeRead
  iterate 9 rw [if_neg (by omega)]
  rw [if_pos (by omega)]
  simp

/-- A host command has no operand range: every value is admitted. -/
theorem wellFormed_of_host {i : Instr} (hi : isElement i = false) : i.wellFormed = true := by
  cases i with
  | mcs | mcsInvalid | term | blklen | data | entry | kwkwk | nopred | beyond | clear | endOfInfo | root | lookup | finish =>
    cases hi
  | _ => rfl

/-! ## Every format -/

/-- Settles O3: by the format; a code by O2, and a host access encodes no element. -/
theorem decodedIsWellFormed : Obligations.DecodedIsWellFormed := by
  intro ctx v i hl hd
  cases ctx with
  | mcsByte => cases hd; exact decodeMcs_wellFormed _
  | lenByte => cases hd; exact decodeLen_wellFormed _
  | dataByte | pixel | noOperand => cases hd; rfl
  | code w r => exact (decodeThenEncodeCodes w r v i (hl w r rfl) hd).1
  | regWrite reg => exact wellFormed_of_host (isElement_decodeWrite hd)
  | regRead reg => exact wellFormed_of_host (isElement_decodeRead hd)

/-- Settles O1: by the instruction. A byte or a word gives its operand back; a code is in the class its condition names, by O4. -/
theorem encodeThenDecode : Obligations.EncodeThenDecode := by
  intro w r i hl hwf hfit
  cases i with
  | mcs n => simp only [encode, decode, wordByte_setWidth, decodeMcs_legal hwf]
  | mcsInvalid b => simp only [encode, decode, wordByte_setWidth, decodeMcs_invalid hwf]
  | blklen n => simp only [encode, decode, wordByte_setWidth, decodeLen_nonzero hwf]
  | data | lookup => simp only [encode, decode, decodeData, wordByte_setWidth]
  | term | finish => rfl
  | clear =>
    refine decode_code hl (of_decide_eq_true hfit) fun c he => ?_
    obtain ⟨hrow, -⟩ := codeClassConditions w r c hl
    exact hrow.2 he
  | endOfInfo =>
    refine decode_code hl (of_decide_eq_true hfit) fun c he => ?_
    obtain ⟨-, hrow, -⟩ := codeClassConditions w r c hl
    exact hrow.2 he
  | root c =>
    obtain ⟨hc, h⟩ := of_decide_eq_true hfit
    obtain ⟨-, -, hrow, -⟩ := codeClassConditions w r c hl
    exact decode_code_self hl hc (hrow.2 h)
  | entry c =>
    obtain ⟨hc, h⟩ := of_decide_eq_true hfit
    obtain ⟨-, -, -, hrow, -⟩ := codeClassConditions w r c hl
    exact decode_code_self hl hc (hrow.2 h)
  | kwkwk c =>
    obtain ⟨hc, h⟩ := of_decide_eq_true hfit
    obtain ⟨-, -, -, -, hrow, -⟩ := codeClassConditions w r c hl
    exact decode_code_self hl hc (hrow.2 h)
  | nopred c =>
    obtain ⟨hc, h⟩ := of_decide_eq_true hfit
    obtain ⟨-, -, -, -, -, hrow, -⟩ := codeClassConditions w r c hl
    exact decode_code_self hl hc (hrow.2 h)
  | beyond c =>
    obtain ⟨hc, h⟩ := of_decide_eq_true hfit
    obtain ⟨-, -, -, -, -, -, hrow⟩ := codeClassConditions w r c hl
    exact decode_code_self hl hc (hrow.2 h)
  | reset => exact decodeWrite_reset (v := 2) (by decide)
  | close => exact decodeWrite_close (v := 4) (by decide) (by decide) (by decide)
  | start alsoClose =>
    cases alsoClose with
    | false => exact decodeWrite_start (v := 1) (by decide) (by decide)
    | true => exact decodeWrite_start (v := 5) (by decide) (by decide)
  | ctsize v => exact congrArg (Decoded.instr ∘ Instr.ctsize) (BitVec.setWidth_setWidth_of_le v (by decide))
  | push b => exact congrArg (Decoded.instr ∘ Instr.push) (wordByte_setWidth b)
  | setaddr k => rfl
  | ctwr i x g b =>
    obtain ⟨hx, hg, hb⟩ := wordByte_rgbWord x g b
    rw [encode, decode, decodeWrite_ctwr, hx, hg, hb]
  | rdct i => exact decodeRead_rdct i
  | rdstatus | rdinfo | rdctsize | rdpos | rdcount | rdaddr | rdlzw | rdprev | rdpix => rfl

/-- Settles O5: each word is evaluated by the decoder. -/
theorem specWordsDecode : Obligations.SpecWordsDecode := by
  unfold Obligations.SpecWordsDecode
  decide

/-! ## Reset -/

/-- Settles O7: the reset state is what RESET leaves of it, the model's session number apart. -/
theorem resetMeetsInv : Obligations.ResetMeetsInv :=
  blockInv_frame (resetBlock_inv State.reset) rfl le_rfl ⟨reset_memories_wf.2, nofun⟩

end Sys2Proof.Machine
end
